-- ==== Sys2Proof/Word.lean ====
section
/-!
DEFINITION. The two word types of the NMOS 6502 (rules R5, R6, decision D1): a byte is 8 bits, an address is 16.
-/

namespace Sys2Proof

/-- `u8` of rule R6: the width of A, X, Y, S, of every memory cell and of every data operand (`XLEN` of R5). -/
abbrev Byte := BitVec 8

/-- `u16` of rule R6: the width of PC and of every address (`ALEN` of R5). -/
abbrev Addr := BitVec 16

end Sys2Proof
end

