-- ==== Sys2Proof/Config.lean ====
section
/-!
DEFINITION. What an implementation or a host fixes: the open parameters of rule R5, and the free values, which are
opaque constants: no proof can see what they are, so a theorem about them holds whatever they are.
-/

namespace Sys2Proof

/-- The kinds of memory of rule R46. `device` carries whether reads of the cell have side effects: rule R45 has the
model refuse such a cell. -/
inductive MemKind where
  | ram
  | rom
  | device (readEffects : Bool)
  | unmapped
deriving DecidableEq, Repr, Inhabited

/-- One line of a memory map: `size` addresses from `base` on, all of one kind. -/
structure Region where
  base : Nat
  size : Nat
  kind : MemKind
deriving DecidableEq, Repr, Inhabited

/-- The functions that can be supplied for the parameter `DecimalMode` (rule R93, decision D7). `uninterpreted` is a function
nothing is known about (`Config.decimalMode`); `nmos` is the candidate of `93_implementation_defined.md` G7, with G17 for
ARR. -/
inductive DecimalMode where
  | uninterpreted
  | nmos
deriving DecidableEq, Repr, Inhabited

/-- The parameter `ArrCarry` (rule R210, decision D18): a draw between the two candidate bits of `A & M`, or one of
them for good. -/
inductive ArrCarry where
  | draw
  | bit6
  | bit7
deriving DecidableEq, Repr, Inhabited

/-- The open parameters of rule R5, but for `InterruptOracle` (the field `inputs` of `State`) and `EndOfRun`
(`Sys2Proof/Machine/Run.lean`). -/
structure Params where
  /-- `MemMap` (rule R46): the first region that holds an address gives its kind; an address in no region is RAM. -/
  memMap : List Region
  /-- `DecimalMode` (rule R93): the function supplied, or none: then decimal arithmetic is `fault DecimalModeUnspecified`. -/
  decimalMode : Option DecimalMode
  /-- `RDY_never_low` (rule R221). -/
  rdyNeverLow : Bool
  /-- `ArrCarry` (rule R210). -/
  arrCarry : ArrCarry
  /-- `AdmitMatrixOnly` (rule R245). -/
  admitMatrixOnly : Bool
deriving DecidableEq, Repr, Inhabited

/-- The defaults of rule R5: all RAM, no function for decimal arithmetic, RDY may be low, ARR's carry a draw, the matrix-only
opcodes not admitted. -/
def Params.specDefaults : Params :=
  { memMap := [], decimalMode := none, rdyNeverLow := false, arrCarry := .draw, admitMatrixOnly := false }

/-- The parameters `State.reset` carries: the defaults of rule R5, but for `DecimalMode` (log entry 5) and
`AdmitMatrixOnly` (log entry 6), where the default would stop an instruction whose effect the spec gives. -/
def Params.chosen : Params :=
  { Params.specDefaults with decimalMode := some .uninterpreted, admitMatrixOnly := true }

/-- `op` of the parameter `DecimalMode` (rule R93). -/
inductive DecimalOp where
  | add
  | sub
deriving DecidableEq, Repr, Inhabited

/-- What an addition or a subtraction gives: the byte for A and the flags N, V, Z, C (rules R91 to R93). -/
structure ArithResult where
  r : Byte
  n : Bool
  v : Bool
  z : Bool
  c : Bool
deriving DecidableEq, Repr, Inhabited

/-- What the registers and flags that rule R28 leaves unspecified hold after a RESET. -/
structure ResetRegisters where
  a : Byte
  x : Byte
  y : Byte
  sp : Byte
  n : Bool
  v : Bool
  d : Bool
  z : Bool
  c : Bool
deriving DecidableEq, Repr, Inhabited

/-- Free value (log entry 5): the parameter `DecimalMode` of rule R93, `(op, a, m, c) -> (r, N, V, Z, C)`. -/
opaque Config.decimalMode : DecimalOp → Byte → Byte → Bool → ArithResult

/-- Free value (log entry 5): what ARR does when D = 1, from A, the immediate byte and C (rule R210, U4). -/
opaque Config.decimalArr : Byte → Byte → Bool → ArithResult

/-- Free value (log entry 7): the outcome of the k-th draw (`draw` of rule R6): `true` takes the first candidate. -/
opaque Config.draw : Nat → Bool

/-- Free value (log entry 8): the byte the host gives for a read of a device cell (rules R46, R347). -/
opaque Config.deviceRead : Nat → Addr → Byte

/-- Free value (log entry 4): what a RESET leaves in the registers and flags that rule R28 calls unspecified. -/
opaque Config.afterReset : Nat → ResetRegisters

end Sys2Proof
end

