-- ==== Sys2Proof/Syntax.lean ====
section
/-!
DEFINITION. The syntax, whole: the thirteen addressing modes (rules R53 to R65), the operations (one for each rule of files
40 to 46), and `Instr`, one constructor for each of the 256 rows of `spec/opcode_table.json`: first the formats F2 and F3 of
rule R50 (with operand bytes), then F1 (the opcode byte alone), each in opcode order; Lean's compiler numbers at most 245
constructors that carry data, so those without come last. Operand bytes stand in the constructors as the encodings hold them: `imm` (Immediate), `zp` (the one-byte
address of the zero-page and indexed indirect modes), `addr` (the word of the two operand bytes), `offset` (Relative).
-/

namespace Sys2Proof

/-- The addressing modes, rules R53 to R65. -/
inductive Mode where
  /-- R53 -/
  | implied
  /-- R54 -/
  | accumulator
  /-- R55 -/
  | immediate
  /-- R56 -/
  | zeroPage
  /-- R57 -/
  | zeroPageX
  /-- R58 -/
  | zeroPageY
  /-- R59 -/
  | absolute
  /-- R60 -/
  | absoluteX
  /-- R61 -/
  | absoluteY
  /-- R62 -/
  | indirect
  /-- R63 -/
  | indirectX
  /-- R64 -/
  | indirectY
  /-- R65 -/
  | relative
deriving DecidableEq, Repr

/-- The modes that name a memory byte, with their operand bytes. -/
inductive MemMode where
  | zeroPage (zp : Byte)
  | zeroPageX (zp : Byte)
  | zeroPageY (zp : Byte)
  | absolute (addr : Addr)
  | absoluteX (addr : Addr)
  | absoluteY (addr : Addr)
  | indirectX (zp : Byte)
  | indirectY (zp : Byte)
deriving DecidableEq, Repr

/-- Where an instruction that only reads its operand finds the byte `M` of rule R6. -/
inductive Source where
  | immediate (imm : Byte)
  | memory (m : MemMode)
deriving DecidableEq, Repr

/-- What a shift, a rotate, an increment or a decrement changes: A, or a memory byte. -/
inductive Place where
  | accumulator
  | memory (m : MemMode)
deriving DecidableEq, Repr

/-- An operand with the use the instruction makes of it. -/
inductive Operand where
  /-- The registers the mnemonic names (rule R53). -/
  | implied
  /-- A byte that is read. -/
  | read (r : Source)
  /-- A memory byte that is written. -/
  | write (m : MemMode)
  /-- A byte that is read, changed and written back. -/
  | modify (p : Place)
  /-- The jump target of `JMP $4C` and `JSR $20` (rule R59). -/
  | target (addr : Addr)
  /-- The pointer of `JMP $6C` (rule R62). -/
  | indirect (addr : Addr)
  /-- The offset of a branch (rule R65). -/
  | relative (offset : Byte)
deriving DecidableEq, Repr

/-- The use an operation makes of its operand. -/
inductive Access where
  | none
  | read
  | write
  | modify
  | target
  | branch
deriving DecidableEq, Repr

/-- What an instruction does, whatever its mode: one constructor for each instruction rule of the spec. -/
inductive Operation where
  /-- BRK, rule R120. -/
  | brk
  /-- ORA, rule R147. -/
  | ora
  /-- JAM, rule R240. -/
  | jam
  /-- SLO, rule R200. -/
  | slo
  /-- the 27 illegal NOPs, rule R241. -/
  | illegalNop
  /-- ASL, rule R102. -/
  | asl
  /-- PHP, rule R173. -/
  | php
  /-- ANC, rule R208. -/
  | anc
  /-- BPL, rule R109. -/
  | bpl
  /-- CLC, rule R132. -/
  | clc
  /-- JSR, rule R141. -/
  | jsr
  /-- AND, rule R101. -/
  | and
  /-- RLA, rule R201. -/
  | rla
  /-- BIT, rule R112. -/
  | bit
  /-- ROL, rule R166. -/
  | rol
  /-- PLP, rule R174. -/
  | plp
  /-- BMI, rule R108. -/
  | bmi
  /-- SEC, rule R133. -/
  | sec
  /-- RTI, rule R168. -/
  | rti
  /-- EOR, rule R131. -/
  | eor
  /-- SRE, rule R202. -/
  | sre
  /-- LSR, rule R145. -/
  | lsr
  /-- PHA, rule R171. -/
  | pha
  /-- ALR, rule R209. -/
  | alr
  /-- JMP, rule R140. -/
  | jmp
  /-- BVC, rule R110. -/
  | bvc
  /-- CLI, rule R136. -/
  | cli
  /-- RTS, rule R169. -/
  | rts
  /-- ADC, rule R100. -/
  | adc
  /-- RRA, rule R203. -/
  | rra
  /-- ROR, rule R167. -/
  | ror
  /-- PLA, rule R172. -/
  | pla
  /-- ARR, rule R210. -/
  | arr
  /-- BVS, rule R111. -/
  | bvs
  /-- SEI, rule R137. -/
  | sei
  /-- STA, rule R175. -/
  | sta
  /-- SAX, rule R204. -/
  | sax
  /-- STY, rule R177. -/
  | sty
  /-- STX, rule R176. -/
  | stx
  /-- DEY, rule R127. -/
  | dey
  /-- TXA, rule R162. -/
  | txa
  /-- ANE, rule R242. -/
  | ane
  /-- BCC, rule R104. -/
  | bcc
  /-- SHA, rule R222. -/
  | sha
  /-- TYA, rule R163. -/
  | tya
  /-- TXS, rule R165. -/
  | txs
  /-- TAS, rule R226. -/
  | tas
  /-- SHY, rule R224. -/
  | shy
  /-- SHX, rule R223. -/
  | shx
  /-- LDY, rule R144. -/
  | ldy
  /-- LDA, rule R142. -/
  | lda
  /-- LDX, rule R143. -/
  | ldx
  /-- LAX, rule R205. -/
  | lax
  /-- TAY, rule R161. -/
  | tay
  /-- TAX, rule R160. -/
  | tax
  /-- LAX at $AB, rule R243. -/
  | laxAB
  /-- BCS, rule R105. -/
  | bcs
  /-- CLV, rule R138. -/
  | clv
  /-- TSX, rule R164. -/
  | tsx
  /-- LAS, rule R225. -/
  | las
  /-- CPY, rule R124. -/
  | cpy
  /-- CMP, rule R122. -/
  | cmp
  /-- DCP, rule R206. -/
  | dcp
  /-- DEC, rule R125. -/
  | dec
  /-- INY, rule R130. -/
  | iny
  /-- DEX, rule R126. -/
  | dex
  /-- SBX, rule R211. -/
  | sbx
  /-- BNE, rule R107. -/
  | bne
  /-- CLD, rule R134. -/
  | cld
  /-- CPX, rule R123. -/
  | cpx
  /-- SBC, rule R170. -/
  | sbc
  /-- ISC, rule R207. -/
  | isc
  /-- INC, rule R128. -/
  | inc
  /-- INX, rule R129. -/
  | inx
  /-- NOP, rule R146. -/
  | nop
  /-- SBC at $EB, rule R244. -/
  | sbcEB
  /-- BEQ, rule R106. -/
  | beq
  /-- SED, rule R135. -/
  | sed
deriving DecidableEq, Repr

/-- An operation with its operand: what a row of the opcode table says beside its opcode byte. -/
structure Form where
  operation : Operation
  operand : Operand
deriving DecidableEq, Repr

/-- The instructions: one constructor for each row of `spec/opcode_table.json`. -/
inductive Instr where
  /-- `$01`: ORA Indirect,X, R147. -/
  | oraIndX (zp : Byte)
  /-- `$03`: SLO Indirect,X, R200. -/
  | sloIndX (zp : Byte)
  /-- `$04`: NOP Zero Page, R241. -/
  | nop04 (zp : Byte)
  /-- `$05`: ORA Zero Page, R147. -/
  | oraZp (zp : Byte)
  /-- `$06`: ASL Zero Page, R102. -/
  | aslZp (zp : Byte)
  /-- `$07`: SLO Zero Page, R200. -/
  | sloZp (zp : Byte)
  /-- `$09`: ORA Immediate, R147. -/
  | oraImm (imm : Byte)
  /-- `$0B`: ANC Immediate, R208. -/
  | anc0B (imm : Byte)
  /-- `$0C`: NOP Absolute, R241. -/
  | nop0C (addr : Addr)
  /-- `$0D`: ORA Absolute, R147. -/
  | oraAbs (addr : Addr)
  /-- `$0E`: ASL Absolute, R102. -/
  | aslAbs (addr : Addr)
  /-- `$0F`: SLO Absolute, R200. -/
  | sloAbs (addr : Addr)
  /-- `$10`: BPL Relative, R109. -/
  | bpl (offset : Byte)
  /-- `$11`: ORA Indirect,Y, R147. -/
  | oraIndY (zp : Byte)
  /-- `$13`: SLO Indirect,Y, R200. -/
  | sloIndY (zp : Byte)
  /-- `$14`: NOP Zero Page,X, R241. -/
  | nop14 (zp : Byte)
  /-- `$15`: ORA Zero Page,X, R147. -/
  | oraZpX (zp : Byte)
  /-- `$16`: ASL Zero Page,X, R102. -/
  | aslZpX (zp : Byte)
  /-- `$17`: SLO Zero Page,X, R200. -/
  | sloZpX (zp : Byte)
  /-- `$19`: ORA Absolute,Y, R147. -/
  | oraAbsY (addr : Addr)
  /-- `$1B`: SLO Absolute,Y, R200. -/
  | sloAbsY (addr : Addr)
  /-- `$1C`: NOP Absolute,X, R241. -/
  | nop1C (addr : Addr)
  /-- `$1D`: ORA Absolute,X, R147. -/
  | oraAbsX (addr : Addr)
  /-- `$1E`: ASL Absolute,X, R102. -/
  | aslAbsX (addr : Addr)
  /-- `$1F`: SLO Absolute,X, R200. -/
  | sloAbsX (addr : Addr)
  /-- `$20`: JSR Absolute, R141. -/
  | jsr (addr : Addr)
  /-- `$21`: AND Indirect,X, R101. -/
  | andIndX (zp : Byte)
  /-- `$23`: RLA Indirect,X, R201. -/
  | rlaIndX (zp : Byte)
  /-- `$24`: BIT Zero Page, R112. -/
  | bitZp (zp : Byte)
  /-- `$25`: AND Zero Page, R101. -/
  | andZp (zp : Byte)
  /-- `$26`: ROL Zero Page, R166. -/
  | rolZp (zp : Byte)
  /-- `$27`: RLA Zero Page, R201. -/
  | rlaZp (zp : Byte)
  /-- `$29`: AND Immediate, R101. -/
  | andImm (imm : Byte)
  /-- `$2B`: ANC Immediate, R208. -/
  | anc2B (imm : Byte)
  /-- `$2C`: BIT Absolute, R112. -/
  | bitAbs (addr : Addr)
  /-- `$2D`: AND Absolute, R101. -/
  | andAbs (addr : Addr)
  /-- `$2E`: ROL Absolute, R166. -/
  | rolAbs (addr : Addr)
  /-- `$2F`: RLA Absolute, R201. -/
  | rlaAbs (addr : Addr)
  /-- `$30`: BMI Relative, R108. -/
  | bmi (offset : Byte)
  /-- `$31`: AND Indirect,Y, R101. -/
  | andIndY (zp : Byte)
  /-- `$33`: RLA Indirect,Y, R201. -/
  | rlaIndY (zp : Byte)
  /-- `$34`: NOP Zero Page,X, R241. -/
  | nop34 (zp : Byte)
  /-- `$35`: AND Zero Page,X, R101. -/
  | andZpX (zp : Byte)
  /-- `$36`: ROL Zero Page,X, R166. -/
  | rolZpX (zp : Byte)
  /-- `$37`: RLA Zero Page,X, R201. -/
  | rlaZpX (zp : Byte)
  /-- `$39`: AND Absolute,Y, R101. -/
  | andAbsY (addr : Addr)
  /-- `$3B`: RLA Absolute,Y, R201. -/
  | rlaAbsY (addr : Addr)
  /-- `$3C`: NOP Absolute,X, R241. -/
  | nop3C (addr : Addr)
  /-- `$3D`: AND Absolute,X, R101. -/
  | andAbsX (addr : Addr)
  /-- `$3E`: ROL Absolute,X, R166. -/
  | rolAbsX (addr : Addr)
  /-- `$3F`: RLA Absolute,X, R201. -/
  | rlaAbsX (addr : Addr)
  /-- `$41`: EOR Indirect,X, R131. -/
  | eorIndX (zp : Byte)
  /-- `$43`: SRE Indirect,X, R202. -/
  | sreIndX (zp : Byte)
  /-- `$44`: NOP Zero Page, R241. -/
  | nop44 (zp : Byte)
  /-- `$45`: EOR Zero Page, R131. -/
  | eorZp (zp : Byte)
  /-- `$46`: LSR Zero Page, R145. -/
  | lsrZp (zp : Byte)
  /-- `$47`: SRE Zero Page, R202. -/
  | sreZp (zp : Byte)
  /-- `$49`: EOR Immediate, R131. -/
  | eorImm (imm : Byte)
  /-- `$4B`: ALR Immediate, R209. -/
  | alr (imm : Byte)
  /-- `$4C`: JMP Absolute, R140. -/
  | jmpAbs (addr : Addr)
  /-- `$4D`: EOR Absolute, R131. -/
  | eorAbs (addr : Addr)
  /-- `$4E`: LSR Absolute, R145. -/
  | lsrAbs (addr : Addr)
  /-- `$4F`: SRE Absolute, R202. -/
  | sreAbs (addr : Addr)
  /-- `$50`: BVC Relative, R110. -/
  | bvc (offset : Byte)
  /-- `$51`: EOR Indirect,Y, R131. -/
  | eorIndY (zp : Byte)
  /-- `$53`: SRE Indirect,Y, R202. -/
  | sreIndY (zp : Byte)
  /-- `$54`: NOP Zero Page,X, R241. -/
  | nop54 (zp : Byte)
  /-- `$55`: EOR Zero Page,X, R131. -/
  | eorZpX (zp : Byte)
  /-- `$56`: LSR Zero Page,X, R145. -/
  | lsrZpX (zp : Byte)
  /-- `$57`: SRE Zero Page,X, R202. -/
  | sreZpX (zp : Byte)
  /-- `$59`: EOR Absolute,Y, R131. -/
  | eorAbsY (addr : Addr)
  /-- `$5B`: SRE Absolute,Y, R202. -/
  | sreAbsY (addr : Addr)
  /-- `$5C`: NOP Absolute,X, R241. -/
  | nop5C (addr : Addr)
  /-- `$5D`: EOR Absolute,X, R131. -/
  | eorAbsX (addr : Addr)
  /-- `$5E`: LSR Absolute,X, R145. -/
  | lsrAbsX (addr : Addr)
  /-- `$5F`: SRE Absolute,X, R202. -/
  | sreAbsX (addr : Addr)
  /-- `$61`: ADC Indirect,X, R100. -/
  | adcIndX (zp : Byte)
  /-- `$63`: RRA Indirect,X, R203. -/
  | rraIndX (zp : Byte)
  /-- `$64`: NOP Zero Page, R241. -/
  | nop64 (zp : Byte)
  /-- `$65`: ADC Zero Page, R100. -/
  | adcZp (zp : Byte)
  /-- `$66`: ROR Zero Page, R167. -/
  | rorZp (zp : Byte)
  /-- `$67`: RRA Zero Page, R203. -/
  | rraZp (zp : Byte)
  /-- `$69`: ADC Immediate, R100. -/
  | adcImm (imm : Byte)
  /-- `$6B`: ARR Immediate, R210. -/
  | arr (imm : Byte)
  /-- `$6C`: JMP Indirect, R140. -/
  | jmpInd (addr : Addr)
  /-- `$6D`: ADC Absolute, R100. -/
  | adcAbs (addr : Addr)
  /-- `$6E`: ROR Absolute, R167. -/
  | rorAbs (addr : Addr)
  /-- `$6F`: RRA Absolute, R203. -/
  | rraAbs (addr : Addr)
  /-- `$70`: BVS Relative, R111. -/
  | bvs (offset : Byte)
  /-- `$71`: ADC Indirect,Y, R100. -/
  | adcIndY (zp : Byte)
  /-- `$73`: RRA Indirect,Y, R203. -/
  | rraIndY (zp : Byte)
  /-- `$74`: NOP Zero Page,X, R241. -/
  | nop74 (zp : Byte)
  /-- `$75`: ADC Zero Page,X, R100. -/
  | adcZpX (zp : Byte)
  /-- `$76`: ROR Zero Page,X, R167. -/
  | rorZpX (zp : Byte)
  /-- `$77`: RRA Zero Page,X, R203. -/
  | rraZpX (zp : Byte)
  /-- `$79`: ADC Absolute,Y, R100. -/
  | adcAbsY (addr : Addr)
  /-- `$7B`: RRA Absolute,Y, R203. -/
  | rraAbsY (addr : Addr)
  /-- `$7C`: NOP Absolute,X, R241. -/
  | nop7C (addr : Addr)
  /-- `$7D`: ADC Absolute,X, R100. -/
  | adcAbsX (addr : Addr)
  /-- `$7E`: ROR Absolute,X, R167. -/
  | rorAbsX (addr : Addr)
  /-- `$7F`: RRA Absolute,X, R203. -/
  | rraAbsX (addr : Addr)
  /-- `$80`: NOP Immediate, R241. -/
  | nop80 (imm : Byte)
  /-- `$81`: STA Indirect,X, R175. -/
  | staIndX (zp : Byte)
  /-- `$82`: NOP Immediate, R241. -/
  | nop82 (imm : Byte)
  /-- `$83`: SAX Indirect,X, R204. -/
  | saxIndX (zp : Byte)
  /-- `$84`: STY Zero Page, R177. -/
  | styZp (zp : Byte)
  /-- `$85`: STA Zero Page, R175. -/
  | staZp (zp : Byte)
  /-- `$86`: STX Zero Page, R176. -/
  | stxZp (zp : Byte)
  /-- `$87`: SAX Zero Page, R204. -/
  | saxZp (zp : Byte)
  /-- `$89`: NOP Immediate, R241. -/
  | nop89 (imm : Byte)
  /-- `$8C`: STY Absolute, R177. -/
  | styAbs (addr : Addr)
  /-- `$8D`: STA Absolute, R175. -/
  | staAbs (addr : Addr)
  /-- `$8E`: STX Absolute, R176. -/
  | stxAbs (addr : Addr)
  /-- `$8F`: SAX Absolute, R204. -/
  | saxAbs (addr : Addr)
  /-- `$90`: BCC Relative, R104. -/
  | bcc (offset : Byte)
  /-- `$91`: STA Indirect,Y, R175. -/
  | staIndY (zp : Byte)
  /-- `$93`: SHA Indirect,Y, R222. -/
  | shaIndY (zp : Byte)
  /-- `$94`: STY Zero Page,X, R177. -/
  | styZpX (zp : Byte)
  /-- `$95`: STA Zero Page,X, R175. -/
  | staZpX (zp : Byte)
  /-- `$96`: STX Zero Page,Y, R176. -/
  | stxZpY (zp : Byte)
  /-- `$97`: SAX Zero Page,Y, R204. -/
  | saxZpY (zp : Byte)
  /-- `$99`: STA Absolute,Y, R175. -/
  | staAbsY (addr : Addr)
  /-- `$9B`: TAS Absolute,Y, R226. -/
  | tas (addr : Addr)
  /-- `$9C`: SHY Absolute,X, R224. -/
  | shy (addr : Addr)
  /-- `$9D`: STA Absolute,X, R175. -/
  | staAbsX (addr : Addr)
  /-- `$9E`: SHX Absolute,Y, R223. -/
  | shx (addr : Addr)
  /-- `$9F`: SHA Absolute,Y, R222. -/
  | shaAbsY (addr : Addr)
  /-- `$A0`: LDY Immediate, R144. -/
  | ldyImm (imm : Byte)
  /-- `$A1`: LDA Indirect,X, R142. -/
  | ldaIndX (zp : Byte)
  /-- `$A2`: LDX Immediate, R143. -/
  | ldxImm (imm : Byte)
  /-- `$A3`: LAX Indirect,X, R205. -/
  | laxIndX (zp : Byte)
  /-- `$A4`: LDY Zero Page, R144. -/
  | ldyZp (zp : Byte)
  /-- `$A5`: LDA Zero Page, R142. -/
  | ldaZp (zp : Byte)
  /-- `$A6`: LDX Zero Page, R143. -/
  | ldxZp (zp : Byte)
  /-- `$A7`: LAX Zero Page, R205. -/
  | laxZp (zp : Byte)
  /-- `$A9`: LDA Immediate, R142. -/
  | ldaImm (imm : Byte)
  /-- `$AC`: LDY Absolute, R144. -/
  | ldyAbs (addr : Addr)
  /-- `$AD`: LDA Absolute, R142. -/
  | ldaAbs (addr : Addr)
  /-- `$AE`: LDX Absolute, R143. -/
  | ldxAbs (addr : Addr)
  /-- `$AF`: LAX Absolute, R205. -/
  | laxAbs (addr : Addr)
  /-- `$B0`: BCS Relative, R105. -/
  | bcs (offset : Byte)
  /-- `$B1`: LDA Indirect,Y, R142. -/
  | ldaIndY (zp : Byte)
  /-- `$B3`: LAX Indirect,Y, R205. -/
  | laxIndY (zp : Byte)
  /-- `$B4`: LDY Zero Page,X, R144. -/
  | ldyZpX (zp : Byte)
  /-- `$B5`: LDA Zero Page,X, R142. -/
  | ldaZpX (zp : Byte)
  /-- `$B6`: LDX Zero Page,Y, R143. -/
  | ldxZpY (zp : Byte)
  /-- `$B7`: LAX Zero Page,Y, R205. -/
  | laxZpY (zp : Byte)
  /-- `$B9`: LDA Absolute,Y, R142. -/
  | ldaAbsY (addr : Addr)
  /-- `$BB`: LAS Absolute,Y, R225. -/
  | las (addr : Addr)
  /-- `$BC`: LDY Absolute,X, R144. -/
  | ldyAbsX (addr : Addr)
  /-- `$BD`: LDA Absolute,X, R142. -/
  | ldaAbsX (addr : Addr)
  /-- `$BE`: LDX Absolute,Y, R143. -/
  | ldxAbsY (addr : Addr)
  /-- `$BF`: LAX Absolute,Y, R205. -/
  | laxAbsY (addr : Addr)
  /-- `$C0`: CPY Immediate, R124. -/
  | cpyImm (imm : Byte)
  /-- `$C1`: CMP Indirect,X, R122. -/
  | cmpIndX (zp : Byte)
  /-- `$C2`: NOP Immediate, R241. -/
  | nopC2 (imm : Byte)
  /-- `$C3`: DCP Indirect,X, R206. -/
  | dcpIndX (zp : Byte)
  /-- `$C4`: CPY Zero Page, R124. -/
  | cpyZp (zp : Byte)
  /-- `$C5`: CMP Zero Page, R122. -/
  | cmpZp (zp : Byte)
  /-- `$C6`: DEC Zero Page, R125. -/
  | decZp (zp : Byte)
  /-- `$C7`: DCP Zero Page, R206. -/
  | dcpZp (zp : Byte)
  /-- `$C9`: CMP Immediate, R122. -/
  | cmpImm (imm : Byte)
  /-- `$CB`: SBX Immediate, R211. -/
  | sbx (imm : Byte)
  /-- `$CC`: CPY Absolute, R124. -/
  | cpyAbs (addr : Addr)
  /-- `$CD`: CMP Absolute, R122. -/
  | cmpAbs (addr : Addr)
  /-- `$CE`: DEC Absolute, R125. -/
  | decAbs (addr : Addr)
  /-- `$CF`: DCP Absolute, R206. -/
  | dcpAbs (addr : Addr)
  /-- `$D0`: BNE Relative, R107. -/
  | bne (offset : Byte)
  /-- `$D1`: CMP Indirect,Y, R122. -/
  | cmpIndY (zp : Byte)
  /-- `$D3`: DCP Indirect,Y, R206. -/
  | dcpIndY (zp : Byte)
  /-- `$D4`: NOP Zero Page,X, R241. -/
  | nopD4 (zp : Byte)
  /-- `$D5`: CMP Zero Page,X, R122. -/
  | cmpZpX (zp : Byte)
  /-- `$D6`: DEC Zero Page,X, R125. -/
  | decZpX (zp : Byte)
  /-- `$D7`: DCP Zero Page,X, R206. -/
  | dcpZpX (zp : Byte)
  /-- `$D9`: CMP Absolute,Y, R122. -/
  | cmpAbsY (addr : Addr)
  /-- `$DB`: DCP Absolute,Y, R206. -/
  | dcpAbsY (addr : Addr)
  /-- `$DC`: NOP Absolute,X, R241. -/
  | nopDC (addr : Addr)
  /-- `$DD`: CMP Absolute,X, R122. -/
  | cmpAbsX (addr : Addr)
  /-- `$DE`: DEC Absolute,X, R125. -/
  | decAbsX (addr : Addr)
  /-- `$DF`: DCP Absolute,X, R206. -/
  | dcpAbsX (addr : Addr)
  /-- `$E0`: CPX Immediate, R123. -/
  | cpxImm (imm : Byte)
  /-- `$E1`: SBC Indirect,X, R170. -/
  | sbcIndX (zp : Byte)
  /-- `$E2`: NOP Immediate, R241. -/
  | nopE2 (imm : Byte)
  /-- `$E3`: ISC Indirect,X, R207. -/
  | iscIndX (zp : Byte)
  /-- `$E4`: CPX Zero Page, R123. -/
  | cpxZp (zp : Byte)
  /-- `$E5`: SBC Zero Page, R170. -/
  | sbcZp (zp : Byte)
  /-- `$E6`: INC Zero Page, R128. -/
  | incZp (zp : Byte)
  /-- `$E7`: ISC Zero Page, R207. -/
  | iscZp (zp : Byte)
  /-- `$E9`: SBC Immediate, R170. -/
  | sbcImm (imm : Byte)
  /-- `$EB`: SBC Immediate, R244. -/
  | sbcEB (imm : Byte)
  /-- `$EC`: CPX Absolute, R123. -/
  | cpxAbs (addr : Addr)
  /-- `$ED`: SBC Absolute, R170. -/
  | sbcAbs (addr : Addr)
  /-- `$EE`: INC Absolute, R128. -/
  | incAbs (addr : Addr)
  /-- `$EF`: ISC Absolute, R207. -/
  | iscAbs (addr : Addr)
  /-- `$F0`: BEQ Relative, R106. -/
  | beq (offset : Byte)
  /-- `$F1`: SBC Indirect,Y, R170. -/
  | sbcIndY (zp : Byte)
  /-- `$F3`: ISC Indirect,Y, R207. -/
  | iscIndY (zp : Byte)
  /-- `$F4`: NOP Zero Page,X, R241. -/
  | nopF4 (zp : Byte)
  /-- `$F5`: SBC Zero Page,X, R170. -/
  | sbcZpX (zp : Byte)
  /-- `$F6`: INC Zero Page,X, R128. -/
  | incZpX (zp : Byte)
  /-- `$F7`: ISC Zero Page,X, R207. -/
  | iscZpX (zp : Byte)
  /-- `$F9`: SBC Absolute,Y, R170. -/
  | sbcAbsY (addr : Addr)
  /-- `$FB`: ISC Absolute,Y, R207. -/
  | iscAbsY (addr : Addr)
  /-- `$FC`: NOP Absolute,X, R241. -/
  | nopFC (addr : Addr)
  /-- `$FD`: SBC Absolute,X, R170. -/
  | sbcAbsX (addr : Addr)
  /-- `$FE`: INC Absolute,X, R128. -/
  | incAbsX (addr : Addr)
  /-- `$FF`: ISC Absolute,X, R207. -/
  | iscAbsX (addr : Addr)
  /-- `$00`: BRK, R120. -/
  | brk
  /-- `$02`: JAM, R240. -/
  | jam02
  /-- `$08`: PHP, R173. -/
  | php
  /-- `$0A`: ASL Accumulator, R102. -/
  | aslAcc
  /-- `$12`: JAM, R240. -/
  | jam12
  /-- `$18`: CLC, R132. -/
  | clc
  /-- `$1A`: NOP, R241. -/
  | nop1A
  /-- `$22`: JAM, R240. -/
  | jam22
  /-- `$28`: PLP, R174. -/
  | plp
  /-- `$2A`: ROL Accumulator, R166. -/
  | rolAcc
  /-- `$32`: JAM, R240. -/
  | jam32
  /-- `$38`: SEC, R133. -/
  | sec
  /-- `$3A`: NOP, R241. -/
  | nop3A
  /-- `$40`: RTI, R168. -/
  | rti
  /-- `$42`: JAM, R240. -/
  | jam42
  /-- `$48`: PHA, R171. -/
  | pha
  /-- `$4A`: LSR Accumulator, R145. -/
  | lsrAcc
  /-- `$52`: JAM, R240. -/
  | jam52
  /-- `$58`: CLI, R136. -/
  | cli
  /-- `$5A`: NOP, R241. -/
  | nop5A
  /-- `$60`: RTS, R169. -/
  | rts
  /-- `$62`: JAM, R240. -/
  | jam62
  /-- `$68`: PLA, R172. -/
  | pla
  /-- `$6A`: ROR Accumulator, R167. -/
  | rorAcc
  /-- `$72`: JAM, R240. -/
  | jam72
  /-- `$78`: SEI, R137. -/
  | sei
  /-- `$7A`: NOP, R241. -/
  | nop7A
  /-- `$88`: DEY, R127. -/
  | dey
  /-- `$8A`: TXA, R162. -/
  | txa
  /-- `$8B`: ANE, R242. -/
  | ane
  /-- `$92`: JAM, R240. -/
  | jam92
  /-- `$98`: TYA, R163. -/
  | tya
  /-- `$9A`: TXS, R165. -/
  | txs
  /-- `$A8`: TAY, R161. -/
  | tay
  /-- `$AA`: TAX, R160. -/
  | tax
  /-- `$AB`: LAX, R243. -/
  | laxAB
  /-- `$B2`: JAM, R240. -/
  | jamB2
  /-- `$B8`: CLV, R138. -/
  | clv
  /-- `$BA`: TSX, R164. -/
  | tsx
  /-- `$C8`: INY, R130. -/
  | iny
  /-- `$CA`: DEX, R126. -/
  | dex
  /-- `$D2`: JAM, R240. -/
  | jamD2
  /-- `$D8`: CLD, R134. -/
  | cld
  /-- `$DA`: NOP, R241. -/
  | nopDA
  /-- `$E8`: INX, R129. -/
  | inx
  /-- `$EA`: NOP, R146. -/
  | nop
  /-- `$F2`: JAM, R240. -/
  | jamF2
  /-- `$F8`: SED, R135. -/
  | sed
  /-- `$FA`: NOP, R241. -/
  | nopFA
deriving DecidableEq, Repr

end Sys2Proof
end

