-- ==== Sys2Proof/Machine/Form.lean ====
section
/-!
DEFINITION. The operation and the operand of every instruction, read from the detail rows of files 40 to 45 (and, for the
matrix-only opcodes, from `93_implementation_defined.md` G15), and the length an operand gives (rule R51).
-/

namespace Sys2Proof

/-- The addressing mode of a memory operand. -/
def MemMode.mode : MemMode → Mode
  | .zeroPage _ => .zeroPage
  | .zeroPageX _ => .zeroPageX
  | .zeroPageY _ => .zeroPageY
  | .absolute _ => .absolute
  | .absoluteX _ => .absoluteX
  | .absoluteY _ => .absoluteY
  | .indirectX _ => .indirectX
  | .indirectY _ => .indirectY

/-- The addressing mode of an operand (rules R53 to R65). -/
def Operand.mode : Operand → Mode
  | .implied => .implied
  | .read (.immediate _) => .immediate
  | .read (.memory m) => m.mode
  | .write m => m.mode
  | .modify .accumulator => .accumulator
  | .modify (.memory m) => m.mode
  | .target _ => .absolute
  | .indirect _ => .indirect
  | .relative _ => .relative

/-- The use of an operand. -/
def Operand.access : Operand → Access
  | .implied => .none
  | .read _ => .read
  | .write _ => .write
  | .modify _ => .modify
  | .target _ => .target
  | .indirect _ => .target
  | .relative _ => .branch

/-- Rule R51: the instruction length is fixed by the mode. -/
def Mode.length : Mode → Nat
  | .implied => 1
  | .accumulator => 1
  | .immediate => 2
  | .zeroPage => 2
  | .zeroPageX => 2
  | .zeroPageY => 2
  | .absolute => 3
  | .absoluteX => 3
  | .absoluteY => 3
  | .indirect => 3
  | .indirectX => 2
  | .indirectY => 2
  | .relative => 2

/-- `len` of rule R6 for a memory operand. -/
def MemMode.length (m : MemMode) : Nat := m.mode.length

/-- `len` of rule R6 for an operand that is read. -/
def Source.length (r : Source) : Nat := (Operand.read r).mode.length

/-- `len` of rule R6 for an operand that is changed. -/
def Place.length (p : Place) : Nat := (Operand.modify p).mode.length

/-- The operation and the operand of an instruction. -/
def Instr.form : Instr → Form
  | .brk => ⟨.brk, .implied⟩
  | .oraIndX zp => ⟨.ora, .read (.memory (.indirectX zp))⟩
  | .jam02 => ⟨.jam, .implied⟩
  | .sloIndX zp => ⟨.slo, .modify (.memory (.indirectX zp))⟩
  | .nop04 zp => ⟨.illegalNop, .read (.memory (.zeroPage zp))⟩
  | .oraZp zp => ⟨.ora, .read (.memory (.zeroPage zp))⟩
  | .aslZp zp => ⟨.asl, .modify (.memory (.zeroPage zp))⟩
  | .sloZp zp => ⟨.slo, .modify (.memory (.zeroPage zp))⟩
  | .php => ⟨.php, .implied⟩
  | .oraImm imm => ⟨.ora, .read (.immediate imm)⟩
  | .aslAcc => ⟨.asl, .modify .accumulator⟩
  | .anc0B imm => ⟨.anc, .read (.immediate imm)⟩
  | .nop0C addr => ⟨.illegalNop, .read (.memory (.absolute addr))⟩
  | .oraAbs addr => ⟨.ora, .read (.memory (.absolute addr))⟩
  | .aslAbs addr => ⟨.asl, .modify (.memory (.absolute addr))⟩
  | .sloAbs addr => ⟨.slo, .modify (.memory (.absolute addr))⟩
  | .bpl offset => ⟨.bpl, .relative offset⟩
  | .oraIndY zp => ⟨.ora, .read (.memory (.indirectY zp))⟩
  | .jam12 => ⟨.jam, .implied⟩
  | .sloIndY zp => ⟨.slo, .modify (.memory (.indirectY zp))⟩
  | .nop14 zp => ⟨.illegalNop, .read (.memory (.zeroPageX zp))⟩
  | .oraZpX zp => ⟨.ora, .read (.memory (.zeroPageX zp))⟩
  | .aslZpX zp => ⟨.asl, .modify (.memory (.zeroPageX zp))⟩
  | .sloZpX zp => ⟨.slo, .modify (.memory (.zeroPageX zp))⟩
  | .clc => ⟨.clc, .implied⟩
  | .oraAbsY addr => ⟨.ora, .read (.memory (.absoluteY addr))⟩
  | .nop1A => ⟨.illegalNop, .implied⟩
  | .sloAbsY addr => ⟨.slo, .modify (.memory (.absoluteY addr))⟩
  | .nop1C addr => ⟨.illegalNop, .read (.memory (.absoluteX addr))⟩
  | .oraAbsX addr => ⟨.ora, .read (.memory (.absoluteX addr))⟩
  | .aslAbsX addr => ⟨.asl, .modify (.memory (.absoluteX addr))⟩
  | .sloAbsX addr => ⟨.slo, .modify (.memory (.absoluteX addr))⟩
  | .jsr addr => ⟨.jsr, .target addr⟩
  | .andIndX zp => ⟨.and, .read (.memory (.indirectX zp))⟩
  | .jam22 => ⟨.jam, .implied⟩
  | .rlaIndX zp => ⟨.rla, .modify (.memory (.indirectX zp))⟩
  | .bitZp zp => ⟨.bit, .read (.memory (.zeroPage zp))⟩
  | .andZp zp => ⟨.and, .read (.memory (.zeroPage zp))⟩
  | .rolZp zp => ⟨.rol, .modify (.memory (.zeroPage zp))⟩
  | .rlaZp zp => ⟨.rla, .modify (.memory (.zeroPage zp))⟩
  | .plp => ⟨.plp, .implied⟩
  | .andImm imm => ⟨.and, .read (.immediate imm)⟩
  | .rolAcc => ⟨.rol, .modify .accumulator⟩
  | .anc2B imm => ⟨.anc, .read (.immediate imm)⟩
  | .bitAbs addr => ⟨.bit, .read (.memory (.absolute addr))⟩
  | .andAbs addr => ⟨.and, .read (.memory (.absolute addr))⟩
  | .rolAbs addr => ⟨.rol, .modify (.memory (.absolute addr))⟩
  | .rlaAbs addr => ⟨.rla, .modify (.memory (.absolute addr))⟩
  | .bmi offset => ⟨.bmi, .relative offset⟩
  | .andIndY zp => ⟨.and, .read (.memory (.indirectY zp))⟩
  | .jam32 => ⟨.jam, .implied⟩
  | .rlaIndY zp => ⟨.rla, .modify (.memory (.indirectY zp))⟩
  | .nop34 zp => ⟨.illegalNop, .read (.memory (.zeroPageX zp))⟩
  | .andZpX zp => ⟨.and, .read (.memory (.zeroPageX zp))⟩
  | .rolZpX zp => ⟨.rol, .modify (.memory (.zeroPageX zp))⟩
  | .rlaZpX zp => ⟨.rla, .modify (.memory (.zeroPageX zp))⟩
  | .sec => ⟨.sec, .implied⟩
  | .andAbsY addr => ⟨.and, .read (.memory (.absoluteY addr))⟩
  | .nop3A => ⟨.illegalNop, .implied⟩
  | .rlaAbsY addr => ⟨.rla, .modify (.memory (.absoluteY addr))⟩
  | .nop3C addr => ⟨.illegalNop, .read (.memory (.absoluteX addr))⟩
  | .andAbsX addr => ⟨.and, .read (.memory (.absoluteX addr))⟩
  | .rolAbsX addr => ⟨.rol, .modify (.memory (.absoluteX addr))⟩
  | .rlaAbsX addr => ⟨.rla, .modify (.memory (.absoluteX addr))⟩
  | .rti => ⟨.rti, .implied⟩
  | .eorIndX zp => ⟨.eor, .read (.memory (.indirectX zp))⟩
  | .jam42 => ⟨.jam, .implied⟩
  | .sreIndX zp => ⟨.sre, .modify (.memory (.indirectX zp))⟩
  | .nop44 zp => ⟨.illegalNop, .read (.memory (.zeroPage zp))⟩
  | .eorZp zp => ⟨.eor, .read (.memory (.zeroPage zp))⟩
  | .lsrZp zp => ⟨.lsr, .modify (.memory (.zeroPage zp))⟩
  | .sreZp zp => ⟨.sre, .modify (.memory (.zeroPage zp))⟩
  | .pha => ⟨.pha, .implied⟩
  | .eorImm imm => ⟨.eor, .read (.immediate imm)⟩
  | .lsrAcc => ⟨.lsr, .modify .accumulator⟩
  | .alr imm => ⟨.alr, .read (.immediate imm)⟩
  | .jmpAbs addr => ⟨.jmp, .target addr⟩
  | .eorAbs addr => ⟨.eor, .read (.memory (.absolute addr))⟩
  | .lsrAbs addr => ⟨.lsr, .modify (.memory (.absolute addr))⟩
  | .sreAbs addr => ⟨.sre, .modify (.memory (.absolute addr))⟩
  | .bvc offset => ⟨.bvc, .relative offset⟩
  | .eorIndY zp => ⟨.eor, .read (.memory (.indirectY zp))⟩
  | .jam52 => ⟨.jam, .implied⟩
  | .sreIndY zp => ⟨.sre, .modify (.memory (.indirectY zp))⟩
  | .nop54 zp => ⟨.illegalNop, .read (.memory (.zeroPageX zp))⟩
  | .eorZpX zp => ⟨.eor, .read (.memory (.zeroPageX zp))⟩
  | .lsrZpX zp => ⟨.lsr, .modify (.memory (.zeroPageX zp))⟩
  | .sreZpX zp => ⟨.sre, .modify (.memory (.zeroPageX zp))⟩
  | .cli => ⟨.cli, .implied⟩
  | .eorAbsY addr => ⟨.eor, .read (.memory (.absoluteY addr))⟩
  | .nop5A => ⟨.illegalNop, .implied⟩
  | .sreAbsY addr => ⟨.sre, .modify (.memory (.absoluteY addr))⟩
  | .nop5C addr => ⟨.illegalNop, .read (.memory (.absoluteX addr))⟩
  | .eorAbsX addr => ⟨.eor, .read (.memory (.absoluteX addr))⟩
  | .lsrAbsX addr => ⟨.lsr, .modify (.memory (.absoluteX addr))⟩
  | .sreAbsX addr => ⟨.sre, .modify (.memory (.absoluteX addr))⟩
  | .rts => ⟨.rts, .implied⟩
  | .adcIndX zp => ⟨.adc, .read (.memory (.indirectX zp))⟩
  | .jam62 => ⟨.jam, .implied⟩
  | .rraIndX zp => ⟨.rra, .modify (.memory (.indirectX zp))⟩
  | .nop64 zp => ⟨.illegalNop, .read (.memory (.zeroPage zp))⟩
  | .adcZp zp => ⟨.adc, .read (.memory (.zeroPage zp))⟩
  | .rorZp zp => ⟨.ror, .modify (.memory (.zeroPage zp))⟩
  | .rraZp zp => ⟨.rra, .modify (.memory (.zeroPage zp))⟩
  | .pla => ⟨.pla, .implied⟩
  | .adcImm imm => ⟨.adc, .read (.immediate imm)⟩
  | .rorAcc => ⟨.ror, .modify .accumulator⟩
  | .arr imm => ⟨.arr, .read (.immediate imm)⟩
  | .jmpInd addr => ⟨.jmp, .indirect addr⟩
  | .adcAbs addr => ⟨.adc, .read (.memory (.absolute addr))⟩
  | .rorAbs addr => ⟨.ror, .modify (.memory (.absolute addr))⟩
  | .rraAbs addr => ⟨.rra, .modify (.memory (.absolute addr))⟩
  | .bvs offset => ⟨.bvs, .relative offset⟩
  | .adcIndY zp => ⟨.adc, .read (.memory (.indirectY zp))⟩
  | .jam72 => ⟨.jam, .implied⟩
  | .rraIndY zp => ⟨.rra, .modify (.memory (.indirectY zp))⟩
  | .nop74 zp => ⟨.illegalNop, .read (.memory (.zeroPageX zp))⟩
  | .adcZpX zp => ⟨.adc, .read (.memory (.zeroPageX zp))⟩
  | .rorZpX zp => ⟨.ror, .modify (.memory (.zeroPageX zp))⟩
  | .rraZpX zp => ⟨.rra, .modify (.memory (.zeroPageX zp))⟩
  | .sei => ⟨.sei, .implied⟩
  | .adcAbsY addr => ⟨.adc, .read (.memory (.absoluteY addr))⟩
  | .nop7A => ⟨.illegalNop, .implied⟩
  | .rraAbsY addr => ⟨.rra, .modify (.memory (.absoluteY addr))⟩
  | .nop7C addr => ⟨.illegalNop, .read (.memory (.absoluteX addr))⟩
  | .adcAbsX addr => ⟨.adc, .read (.memory (.absoluteX addr))⟩
  | .rorAbsX addr => ⟨.ror, .modify (.memory (.absoluteX addr))⟩
  | .rraAbsX addr => ⟨.rra, .modify (.memory (.absoluteX addr))⟩
  | .nop80 imm => ⟨.illegalNop, .read (.immediate imm)⟩
  | .staIndX zp => ⟨.sta, .write (.indirectX zp)⟩
  | .nop82 imm => ⟨.illegalNop, .read (.immediate imm)⟩
  | .saxIndX zp => ⟨.sax, .write (.indirectX zp)⟩
  | .styZp zp => ⟨.sty, .write (.zeroPage zp)⟩
  | .staZp zp => ⟨.sta, .write (.zeroPage zp)⟩
  | .stxZp zp => ⟨.stx, .write (.zeroPage zp)⟩
  | .saxZp zp => ⟨.sax, .write (.zeroPage zp)⟩
  | .dey => ⟨.dey, .implied⟩
  | .nop89 imm => ⟨.illegalNop, .read (.immediate imm)⟩
  | .txa => ⟨.txa, .implied⟩
  | .ane => ⟨.ane, .implied⟩
  | .styAbs addr => ⟨.sty, .write (.absolute addr)⟩
  | .staAbs addr => ⟨.sta, .write (.absolute addr)⟩
  | .stxAbs addr => ⟨.stx, .write (.absolute addr)⟩
  | .saxAbs addr => ⟨.sax, .write (.absolute addr)⟩
  | .bcc offset => ⟨.bcc, .relative offset⟩
  | .staIndY zp => ⟨.sta, .write (.indirectY zp)⟩
  | .jam92 => ⟨.jam, .implied⟩
  | .shaIndY zp => ⟨.sha, .write (.indirectY zp)⟩
  | .styZpX zp => ⟨.sty, .write (.zeroPageX zp)⟩
  | .staZpX zp => ⟨.sta, .write (.zeroPageX zp)⟩
  | .stxZpY zp => ⟨.stx, .write (.zeroPageY zp)⟩
  | .saxZpY zp => ⟨.sax, .write (.zeroPageY zp)⟩
  | .tya => ⟨.tya, .implied⟩
  | .staAbsY addr => ⟨.sta, .write (.absoluteY addr)⟩
  | .txs => ⟨.txs, .implied⟩
  | .tas addr => ⟨.tas, .write (.absoluteY addr)⟩
  | .shy addr => ⟨.shy, .write (.absoluteX addr)⟩
  | .staAbsX addr => ⟨.sta, .write (.absoluteX addr)⟩
  | .shx addr => ⟨.shx, .write (.absoluteY addr)⟩
  | .shaAbsY addr => ⟨.sha, .write (.absoluteY addr)⟩
  | .ldyImm imm => ⟨.ldy, .read (.immediate imm)⟩
  | .ldaIndX zp => ⟨.lda, .read (.memory (.indirectX zp))⟩
  | .ldxImm imm => ⟨.ldx, .read (.immediate imm)⟩
  | .laxIndX zp => ⟨.lax, .read (.memory (.indirectX zp))⟩
  | .ldyZp zp => ⟨.ldy, .read (.memory (.zeroPage zp))⟩
  | .ldaZp zp => ⟨.lda, .read (.memory (.zeroPage zp))⟩
  | .ldxZp zp => ⟨.ldx, .read (.memory (.zeroPage zp))⟩
  | .laxZp zp => ⟨.lax, .read (.memory (.zeroPage zp))⟩
  | .tay => ⟨.tay, .implied⟩
  | .ldaImm imm => ⟨.lda, .read (.immediate imm)⟩
  | .tax => ⟨.tax, .implied⟩
  | .laxAB => ⟨.laxAB, .implied⟩
  | .ldyAbs addr => ⟨.ldy, .read (.memory (.absolute addr))⟩
  | .ldaAbs addr => ⟨.lda, .read (.memory (.absolute addr))⟩
  | .ldxAbs addr => ⟨.ldx, .read (.memory (.absolute addr))⟩
  | .laxAbs addr => ⟨.lax, .read (.memory (.absolute addr))⟩
  | .bcs offset => ⟨.bcs, .relative offset⟩
  | .ldaIndY zp => ⟨.lda, .read (.memory (.indirectY zp))⟩
  | .jamB2 => ⟨.jam, .implied⟩
  | .laxIndY zp => ⟨.lax, .read (.memory (.indirectY zp))⟩
  | .ldyZpX zp => ⟨.ldy, .read (.memory (.zeroPageX zp))⟩
  | .ldaZpX zp => ⟨.lda, .read (.memory (.zeroPageX zp))⟩
  | .ldxZpY zp => ⟨.ldx, .read (.memory (.zeroPageY zp))⟩
  | .laxZpY zp => ⟨.lax, .read (.memory (.zeroPageY zp))⟩
  | .clv => ⟨.clv, .implied⟩
  | .ldaAbsY addr => ⟨.lda, .read (.memory (.absoluteY addr))⟩
  | .tsx => ⟨.tsx, .implied⟩
  | .las addr => ⟨.las, .read (.memory (.absoluteY addr))⟩
  | .ldyAbsX addr => ⟨.ldy, .read (.memory (.absoluteX addr))⟩
  | .ldaAbsX addr => ⟨.lda, .read (.memory (.absoluteX addr))⟩
  | .ldxAbsY addr => ⟨.ldx, .read (.memory (.absoluteY addr))⟩
  | .laxAbsY addr => ⟨.lax, .read (.memory (.absoluteY addr))⟩
  | .cpyImm imm => ⟨.cpy, .read (.immediate imm)⟩
  | .cmpIndX zp => ⟨.cmp, .read (.memory (.indirectX zp))⟩
  | .nopC2 imm => ⟨.illegalNop, .read (.immediate imm)⟩
  | .dcpIndX zp => ⟨.dcp, .modify (.memory (.indirectX zp))⟩
  | .cpyZp zp => ⟨.cpy, .read (.memory (.zeroPage zp))⟩
  | .cmpZp zp => ⟨.cmp, .read (.memory (.zeroPage zp))⟩
  | .decZp zp => ⟨.dec, .modify (.memory (.zeroPage zp))⟩
  | .dcpZp zp => ⟨.dcp, .modify (.memory (.zeroPage zp))⟩
  | .iny => ⟨.iny, .implied⟩
  | .cmpImm imm => ⟨.cmp, .read (.immediate imm)⟩
  | .dex => ⟨.dex, .implied⟩
  | .sbx imm => ⟨.sbx, .read (.immediate imm)⟩
  | .cpyAbs addr => ⟨.cpy, .read (.memory (.absolute addr))⟩
  | .cmpAbs addr => ⟨.cmp, .read (.memory (.absolute addr))⟩
  | .decAbs addr => ⟨.dec, .modify (.memory (.absolute addr))⟩
  | .dcpAbs addr => ⟨.dcp, .modify (.memory (.absolute addr))⟩
  | .bne offset => ⟨.bne, .relative offset⟩
  | .cmpIndY zp => ⟨.cmp, .read (.memory (.indirectY zp))⟩
  | .jamD2 => ⟨.jam, .implied⟩
  | .dcpIndY zp => ⟨.dcp, .modify (.memory (.indirectY zp))⟩
  | .nopD4 zp => ⟨.illegalNop, .read (.memory (.zeroPageX zp))⟩
  | .cmpZpX zp => ⟨.cmp, .read (.memory (.zeroPageX zp))⟩
  | .decZpX zp => ⟨.dec, .modify (.memory (.zeroPageX zp))⟩
  | .dcpZpX zp => ⟨.dcp, .modify (.memory (.zeroPageX zp))⟩
  | .cld => ⟨.cld, .implied⟩
  | .cmpAbsY addr => ⟨.cmp, .read (.memory (.absoluteY addr))⟩
  | .nopDA => ⟨.illegalNop, .implied⟩
  | .dcpAbsY addr => ⟨.dcp, .modify (.memory (.absoluteY addr))⟩
  | .nopDC addr => ⟨.illegalNop, .read (.memory (.absoluteX addr))⟩
  | .cmpAbsX addr => ⟨.cmp, .read (.memory (.absoluteX addr))⟩
  | .decAbsX addr => ⟨.dec, .modify (.memory (.absoluteX addr))⟩
  | .dcpAbsX addr => ⟨.dcp, .modify (.memory (.absoluteX addr))⟩
  | .cpxImm imm => ⟨.cpx, .read (.immediate imm)⟩
  | .sbcIndX zp => ⟨.sbc, .read (.memory (.indirectX zp))⟩
  | .nopE2 imm => ⟨.illegalNop, .read (.immediate imm)⟩
  | .iscIndX zp => ⟨.isc, .modify (.memory (.indirectX zp))⟩
  | .cpxZp zp => ⟨.cpx, .read (.memory (.zeroPage zp))⟩
  | .sbcZp zp => ⟨.sbc, .read (.memory (.zeroPage zp))⟩
  | .incZp zp => ⟨.inc, .modify (.memory (.zeroPage zp))⟩
  | .iscZp zp => ⟨.isc, .modify (.memory (.zeroPage zp))⟩
  | .inx => ⟨.inx, .implied⟩
  | .sbcImm imm => ⟨.sbc, .read (.immediate imm)⟩
  | .nop => ⟨.nop, .implied⟩
  | .sbcEB imm => ⟨.sbcEB, .read (.immediate imm)⟩
  | .cpxAbs addr => ⟨.cpx, .read (.memory (.absolute addr))⟩
  | .sbcAbs addr => ⟨.sbc, .read (.memory (.absolute addr))⟩
  | .incAbs addr => ⟨.inc, .modify (.memory (.absolute addr))⟩
  | .iscAbs addr => ⟨.isc, .modify (.memory (.absolute addr))⟩
  | .beq offset => ⟨.beq, .relative offset⟩
  | .sbcIndY zp => ⟨.sbc, .read (.memory (.indirectY zp))⟩
  | .jamF2 => ⟨.jam, .implied⟩
  | .iscIndY zp => ⟨.isc, .modify (.memory (.indirectY zp))⟩
  | .nopF4 zp => ⟨.illegalNop, .read (.memory (.zeroPageX zp))⟩
  | .sbcZpX zp => ⟨.sbc, .read (.memory (.zeroPageX zp))⟩
  | .incZpX zp => ⟨.inc, .modify (.memory (.zeroPageX zp))⟩
  | .iscZpX zp => ⟨.isc, .modify (.memory (.zeroPageX zp))⟩
  | .sed => ⟨.sed, .implied⟩
  | .sbcAbsY addr => ⟨.sbc, .read (.memory (.absoluteY addr))⟩
  | .nopFA => ⟨.illegalNop, .implied⟩
  | .iscAbsY addr => ⟨.isc, .modify (.memory (.absoluteY addr))⟩
  | .nopFC addr => ⟨.illegalNop, .read (.memory (.absoluteX addr))⟩
  | .sbcAbsX addr => ⟨.sbc, .read (.memory (.absoluteX addr))⟩
  | .incAbsX addr => ⟨.inc, .modify (.memory (.absoluteX addr))⟩
  | .iscAbsX addr => ⟨.isc, .modify (.memory (.absoluteX addr))⟩

/-- The operation of an instruction. -/
def Instr.operation (i : Instr) : Operation := i.form.operation

/-- The operand of an instruction. -/
def Instr.operand (i : Instr) : Operand := i.form.operand

/-- `len` of rule R6: the number of bytes of an instruction. -/
def Instr.length (i : Instr) : Nat := i.operand.mode.length

end Sys2Proof
end

