-- ==== Sys2Proof/Machine/Bits.lean ====
section
/-!
DEFINITION. The bit-field, byte-order and sign-extension helpers of rule R6.
-/

namespace Sys2Proof.Machine

/-- `hi(w)` of rule R6: bits 15..8, the page of an address. -/
def hi (w : Addr) : Byte := w.extractLsb' 8 8

/-- `lo(w)` of rule R6: bits 7..0. -/
def lo (w : Addr) : Byte := w.extractLsb' 0 8

/-- `word(h, l)` of rule R6: the address with high byte `h` and low byte `l`. -/
def word (h l : Byte) : Addr := h ++ l

/-- `zext_16(b)` of rule R6. -/
def zext16 (b : Byte) : Addr := b.setWidth 16

/-- `sext_16(b)` of rule R6, the sign extension of a branch offset. -/
def sext16 (b : Byte) : Addr := b.signExtend 16

/-- `v[k]` of rule R6 for a byte: bit 0 is the least significant. -/
def bit (v : Byte) (k : Nat) : Bool := v.getLsbD k

/-- `c * 2^k` for a flag used as a number (rule R16). -/
def flagBit (c : Bool) (k : Nat) : Nat := c.toNat * 2 ^ k

/-- The address of the stack byte `$0100 + S` (rule R36). -/
def stackAddr (sp : Byte) : Addr := word 0x01 sp

end Sys2Proof.Machine
end

