-- ==== Sys2Proof/Machine/State.lean ====
section
/-!
DEFINITION. The state of the machine as plain data (`10_state.md`), the reasons a step can stop, and the machine right after
reset (rules R28, R341).
-/

namespace Sys2Proof.Machine

/-- Why the machine stops with a fault. -/
inductive Fault where
  /-- A read of a RAM or ROM cell that nothing has written and no image holds (rule R46, decision D23). Raised by every
  memory read. Safe: the hardware goes on with some byte. -/
  | readOfUnspecified (address : Addr)
  /-- A read of an unmapped cell (rule R46, decision D15). Raised by every memory read. Safe: the hardware goes on with what
  the open bus holds. -/
  | readOfUnmapped (address : Addr)
  /-- `fault DecimalModeUnspecified` of rule R93 (decision D7): ADC, SBC, RRA, ISC or ARR with D = 1 where no function is
  supplied for the parameter `DecimalMode`, the default of rule R5. Safe: the hardware goes on with some result. -/
  | decimalModeUnspecified
  /-- `stuck` of rule R240: a boundary of a jammed machine at which no RESET is asserted. Raised by `step`. Safe: the
  hardware, too, does nothing from then on but wait for RESET. -/
  | jammed
deriving DecidableEq, Repr

/-- Why the model gives an instruction no meaning. -/
inductive Refusal where
  /-- An instruction whose meaning is not written yet, by its mnemonic. Raised by no arm of `exec` now. Safe. -/
  | notModelled (mnemonic : String)
  /-- `refuse UnstablePageCross` of rule R220: a semi-stable opcode whose indexed address crosses a page. Raised by SHA, SHX,
  SHY, TAS and LAS, unless `deviceWithReadEffects` applies to the un-carried cell as well (log entry 34). Safe: nothing can be
  proved of what follows. -/
  | unstablePageCross
  /-- `refuse UndetailedOpcode` of rules R241 to R245. Raised by ANE and LAX `$AB`, and by the illegal NOPs and SBC `$EB`
  unless `AdmitMatrixOnly` is set. Safe. -/
  | undetailedOpcode
  /-- Rule R45: an instruction that addresses a device cell whose reads have side effects (or, for an indexed mode that
  carries, the cell in the same position of the previous page) is outside the model. Raised by every memory access, and by
  an illegal NOP with a memory operand, which makes none. Safe. -/
  | deviceWithReadEffects (address : Addr)
deriving DecidableEq, Repr

/-- What an operation of the machine answers: a value, a fault or a refusal. -/
abbrev Out (α : Type) := Host.Outcome α Fault Refusal

/-- Memory: the cells that hold a value, as (address, byte) pairs in one canonical form (`Memory.wf`): addresses strictly
rising, all below 65536. An address that is not listed holds no value (rule R46, log entry 2). -/
abbrev Memory := List Host.Cell

/-- What the host asserts at one instruction boundary (rules R302 to R304). -/
structure BoundaryInput where
  /-- The level of the IRQ line from this boundary on (rule R302). -/
  irqLine : Bool
  /-- An NMI edge has arrived since the last boundary (rule R303). -/
  nmiEdge : Bool
  /-- RESET is asserted at this boundary (rule R304). -/
  reset : Bool
deriving DecidableEq, Repr, Inhabited

/-- The state: the registers and flags of rules R10 to R23, memory (R25), the hidden state of R27, and the model's own
fields (log entries 1, 7, 8, 9, 14). -/
structure State where
  /-- A, the accumulator (rule R10). -/
  a : Byte
  /-- X, an index register (rule R11). -/
  x : Byte
  /-- Y, an index register (rule R12). -/
  y : Byte
  /-- S, the stack pointer (rule R13). -/
  sp : Byte
  /-- PC, the program counter (rule R14). -/
  pc : Addr
  /-- N, the negative flag (rule R23). -/
  n : Bool
  /-- V, the overflow flag (rule R22). -/
  v : Bool
  /-- D, the decimal-mode flag (rule R20). -/
  d : Bool
  /-- I, the interrupt-disable flag (rule R19). -/
  i : Bool
  /-- Z, the zero flag (rule R18). -/
  z : Bool
  /-- C, the carry flag (rule R17). -/
  c : Bool
  /-- The jammed condition (rules R27, R240). -/
  jammed : Bool
  /-- The level of the IRQ line (rules R27, R302). -/
  irqLine : Bool
  /-- The NMI edge latch (rules R27, R303). -/
  nmiPending : Bool
  /-- RESET is due at this boundary (rules R27, R304). -/
  resetPending : Bool
  /-- The memory cells (rule R25). -/
  mem : Memory
  /-- The model's own: what the host asserts at the coming boundaries, the parameter `InterruptOracle`; none left means that
  it changes nothing (log entry 9). -/
  inputs : List BoundaryInput
  /-- The model's own: the bytes told to the host by writes to device cells, oldest first (rules R46, R347). -/
  deviceLog : List Host.Cell
  /-- The model's own: how many free values have been taken (log entry 7). -/
  draws : Nat
  /-- The model's own: the informational cycle total of rule R344 (log entry 14). -/
  cycles : Nat
  /-- The model's own: the open parameters of rule R5, which no step changes (log entry 1). -/
  params : Params
deriving DecidableEq, Repr

/-- The machine right after reset (rules R28, R341): I = 1, nothing pending, not jammed, memory as the host loads it. Rule
R28 leaves A, X, Y, S, N, V, D, Z and C unspecified; they and PC, whose vector an empty memory does not hold, have the
values log entry 3 names. -/
def State.reset : State :=
  { a := 0, x := 0, y := 0, sp := 0, pc := 0,
    n := false, v := false, d := false, i := true, z := false, c := false,
    jammed := false, irqLine := false, nmiPending := false, resetPending := false,
    mem := [], inputs := [], deviceLog := [], draws := 0, cycles := 0, params := Params.chosen }

/-- The machine right after reset with the parameters and the memory image (in canonical form, `Memory.wf`) the host gives it
before the run (rule R347). -/
def State.resetWith (p : Params) (image : Memory) : State := { State.reset with params := p, mem := image }

/-- `A <- b`. -/
def State.setA (b : Byte) (s : State) : State := { s with a := b }
/-- `X <- b`. -/
def State.setX (b : Byte) (s : State) : State := { s with x := b }
/-- `Y <- b`. -/
def State.setY (b : Byte) (s : State) : State := { s with y := b }
/-- `S <- b`. -/
def State.setSp (b : Byte) (s : State) : State := { s with sp := b }
/-- `PC <- w`. -/
def State.setPc (w : Addr) (s : State) : State := { s with pc := w }
/-- `V <- b`. -/
def State.setV (b : Bool) (s : State) : State := { s with v := b }
/-- `D <- b`. -/
def State.setD (b : Bool) (s : State) : State := { s with d := b }
/-- `I <- b`. -/
def State.setI (b : Bool) (s : State) : State := { s with i := b }
/-- `C <- b`. -/
def State.setC (b : Bool) (s : State) : State := { s with c := b }
/-- The machine is jammed (rule R240). -/
def State.setJammed (s : State) : State := { s with jammed := true }
/-- The memory becomes `m`. -/
def State.setMem (m : Memory) (s : State) : State := { s with mem := m }
/-- The host is told of a write to a device cell. -/
def State.logDevice (cell : Host.Cell) (s : State) : State := { s with deviceLog := s.deviceLog ++ [cell] }
/-- One more free value has been taken. -/
def State.countDraw (s : State) : State := { s with draws := s.draws + 1 }
/-- `k` more clock cycles have passed. -/
def State.addCycles (k : Nat) (s : State) : State := { s with cycles := s.cycles + k }
/-- The pending NMI is taken. -/
def State.clearNmi (s : State) : State := { s with nmiPending := false }

end Sys2Proof.Machine
end

