-- ==== Sys2Proof/Machine/Flags.lean ====
section
/-!
DEFINITION. Every flag computation and every arithmetic helper of the spec: rules R16, R24, R91 to R95, R210, and the decimal
algorithms of `93_implementation_defined.md` G7 and G17.
-/

namespace Sys2Proof.Machine

/-- `SetNZ(v)` of rule R24. -/
def State.setNZ (r : Byte) (s : State) : State := { s with n := bit r 7, z := decide (r = 0) }

/-- `AddBinary(a, m, c)` of rule R91, with N and Z of the result (rule R100). -/
def addBinary (a m : Byte) (c : Bool) : ArithResult :=
  let sum := a.toNat + m.toNat + c.toNat
  let r : Byte := BitVec.ofNat 8 sum
  { r := r, n := bit r 7, v := (bit a 7 == bit m 7) && (bit r 7 != bit a 7), z := decide (r = 0), c := decide (256 ≤ sum) }

/-- `SubBinary(a, m, c)` of rule R92. -/
def subBinary (a m : Byte) (c : Bool) : ArithResult := addBinary a (~~~m) c

/-- ADC with D = 1 on the NMOS part (G7). -/
def decimalAddNmos (a m : Byte) (c : Bool) : ArithResult :=
  let al₀ := a.toNat % 16 + m.toNat % 16 + c.toNat
  let al := if 10 ≤ al₀ then (al₀ + 6) % 16 + 16 else al₀
  let s₀ := a.toNat / 16 * 16 + m.toNat / 16 * 16 + al
  let top := bit (BitVec.ofNat 8 s₀) 7
  let s := if 160 ≤ s₀ then s₀ + 96 else s₀
  { r := BitVec.ofNat 8 s, n := top, v := (bit a 7 == bit m 7) && (top != bit a 7),
    z := decide ((a.toNat + m.toNat + c.toNat) % 256 = 0), c := decide (256 ≤ s) }

/-- SBC with D = 1 on the NMOS part (G7): the flags are those of the binary subtraction. -/
def decimalSubNmos (a m : Byte) (c : Bool) : ArithResult :=
  let al₀ : Int := (a.toNat % 16 : Nat) - (m.toNat % 16 : Nat) + c.toNat - 1
  let al : Int := if al₀ < 0 then (al₀ - 6) % 16 - 16 else al₀
  let s₀ : Int := (a.toNat / 16 * 16 : Nat) - (m.toNat / 16 * 16 : Nat) + al
  let s : Int := if s₀ < 0 then s₀ - 96 else s₀
  { subBinary a m c with r := BitVec.ofInt 8 s }

/-- The function supplied for the parameter `DecimalMode` (rule R93). -/
def decimalResult (mode : DecimalMode) (op : DecimalOp) (a m : Byte) (c : Bool) : ArithResult :=
  match mode, op with
  | .uninterpreted, op => Config.decimalMode op a m c
  | .nmos, .add => decimalAddNmos a m c
  | .nmos, .sub => decimalSubNmos a m c

/-- Decimal arithmetic by the function supplied for `DecimalMode`; with none supplied it is
`fault DecimalModeUnspecified` (rule R93, decision D7). -/
def inDecimalMode (mode : Option DecimalMode) (f : DecimalMode → ArithResult) : Out ArithResult :=
  match mode with
  | some g => .next (f g)
  | none => .fault .decimalModeUnspecified

/-- The addition of ADC and RRA (rules R93, R100, R203): decimal when D = 1, binary when D = 0. -/
def addResult (mode : Option DecimalMode) (d : Bool) (a m : Byte) (c : Bool) : Out ArithResult :=
  if d then inDecimalMode mode fun g => decimalResult g .add a m c else .next (addBinary a m c)

/-- The subtraction of SBC and ISC (rules R93, R170, R207): decimal when D = 1, binary when D = 0. -/
def subResult (mode : Option DecimalMode) (d : Bool) (a m : Byte) (c : Bool) : Out ArithResult :=
  if d then inDecimalMode mode fun g => decimalResult g .sub a m c else .next (subBinary a m c)

/-- `(A, N, V, Z, C) <- result`. -/
def State.setArith (q : ArithResult) (s : State) : State :=
  { s with a := q.r, n := q.n, v := q.v, z := q.z, c := q.c }

/-- `Compare(r, m)` of rule R94. -/
def State.setCompare (r m : Byte) (s : State) : State :=
  { s with c := decide (m.toNat ≤ r.toNat), z := decide (r = m), n := bit (r - m) 7 }

/-- A shift or rotate of rule R95: the operand and the old carry give the result and the carry out. -/
abbrev Shift := Byte → Bool → Byte × Bool

/-- `Asl(m)` of rule R95. -/
def asl : Shift := fun m _ => (BitVec.ofNat 8 (m.toNat * 2), bit m 7)
/-- `Lsr(m)` of rule R95. -/
def lsr : Shift := fun m _ => (BitVec.ofNat 8 (m.toNat / 2), bit m 0)
/-- `Rol(m, c)` of rule R95. -/
def rol : Shift := fun m c => (BitVec.ofNat 8 (m.toNat * 2 % 256 + c.toNat), bit m 7)
/-- `Ror(m, c)` of rule R95. -/
def ror : Shift := fun m c => (BitVec.ofNat 8 (m.toNat / 2 + c.toNat * 128), bit m 0)

/-- The flags BIT sets (rule R112): Z from `A & M`, N and V from `M` itself. -/
def State.setBitTest (m : Byte) (s : State) : State :=
  { s with z := decide (s.a &&& m = 0), n := bit m 7, v := bit m 6 }

/-- `PByte(b)` of rule R16: the status byte as pushed, bit 5 set, bit 4 the B the pushing agent supplies. -/
def pByte (b : Bool) (s : State) : Byte :=
  BitVec.ofNat 8 (flagBit s.n 7 + flagBit s.v 6 + 32 + flagBit b 4 + flagBit s.d 3 + flagBit s.i 2 + flagBit s.z 1
    + flagBit s.c 0)

/-- `SetP(v)` of rule R16: bits 5 and 4 are ignored. -/
def State.setP (p : Byte) (s : State) : State :=
  { s with n := bit p 7, v := bit p 6, d := bit p 3, i := bit p 2, z := bit p 1, c := bit p 0 }

/-- ARR with D = 1 on the NMOS part (G17). -/
def decimalArrNmos (a m : Byte) (c : Bool) : ArithResult :=
  let t := a &&& m
  let r := (ror t c).1
  let r₁ : Byte := if 5 < t.toNat % 16 + t.toNat % 2 then BitVec.ofNat 8 (r.toNat / 16 * 16 + (r.toNat + 6) % 16) else r
  let high := decide (80 < t.toNat / 16 * 16 + t.toNat / 16 % 2 * 16)
  { r := if high then r₁ + 0x60 else r₁, n := c, v := bit (t ^^^ r) 6, z := decide (r = 0), c := high }

/-- What ARR does when D = 1 (rule R210, U4): a free value, or G17. -/
def decimalArr (mode : DecimalMode) (a m : Byte) (c : Bool) : ArithResult :=
  match mode with
  | .uninterpreted => Config.decimalArr a m c
  | .nmos => decimalArrNmos a m c

/-- ARR with D = 0 (rule R210), given the bit that goes to C: the AND, then the rotation that takes the old C into bit 7. -/
def binaryArr (t : Byte) (c cout : Bool) : ArithResult :=
  let r := (ror t c).1
  { r := r, n := bit r 7, v := bit t 6 ^^ bit t 7, z := decide (r = 0), c := cout }

/-- `draw{a, b}` of rule R6: one of two candidates, which one is a free value. -/
def State.draw {α : Type} (a b : α) (s : State) : α × State :=
  (if Config.draw s.draws then a else b, s.countDraw)

/-- `ArrCarry` of rule R210: the bit of `t = A & M` that ARR copies to C. -/
def arrCarry (t : Byte) (s : State) : Bool × State :=
  match s.params.arrCarry with
  | .bit6 => (bit t 6, s)
  | .bit7 => (bit t 7, s)
  | .draw => s.draw (bit t 6) (bit t 7)

end Sys2Proof.Machine
end

