-- ==== Sys2Proof/Machine/Memory.lean ====
section
/-!
DEFINITION. Memory as a list of cells in canonical form (rule R25, log entry 2), and the kind of each address (rule R46).
-/

namespace Sys2Proof.Machine

/-- The byte at an address, if the cell holds one. -/
def Memory.get? : Memory → Nat → Option Byte
  | [], _ => none
  | (a, b) :: rest, k => if k = a then some b else if k < a then none else Memory.get? rest k

/-- Store a byte at an address, keeping the addresses strictly rising. An unlisted cell holds no value, so no byte makes an
entry superfluous. -/
def Memory.set : Memory → Nat → Byte → Memory
  | [], k, v => [(k, v)]
  | (a, b) :: rest, k, v =>
    if k = a then (k, v) :: rest else if k < a then (k, v) :: (a, b) :: rest else (a, b) :: Memory.set rest k v

/-- Every address of a memory is at least `k`, below 65536, and the addresses are strictly rising. -/
def Memory.wfFrom (k : Nat) : Memory → Bool
  | [] => true
  | (a, _) :: rest => decide (k ≤ a) && decide (a < 65536) && Memory.wfFrom (a + 1) rest

/-- The canonical form: addresses strictly rising and inside the 65536 cells of rule R30. -/
def Memory.wf (m : Memory) : Bool := Memory.wfFrom 0 m

/-- Store bytes at consecutive addresses, wrapping modulo 65536 (rule R32). -/
def Memory.load (m : Memory) (a : Addr) : List Byte → Memory
  | [] => m
  | b :: rest => Memory.load (Memory.set m a.toNat b) (a + 1) rest

/-- Whether a line of a memory map holds an address. -/
def regionHolds (r : Region) (a : Nat) : Bool := decide (r.base ≤ a) && decide (a < r.base + r.size)

/-- `MemMap` (rule R46): the kind of the first line that holds the address; RAM where no line does. -/
def kindIn (map : List Region) (a : Nat) : MemKind :=
  match map with
  | [] => .ram
  | r :: rest => if regionHolds r a then r.kind else kindIn rest a

/-- The kind of memory at an address. -/
def State.kindAt (s : State) (a : Addr) : MemKind := kindIn s.params.memMap a.toNat

/-- The byte a memory cell holds, looked at without an access: no device is asked, nothing changes. -/
def State.peek (s : State) (a : Addr) : Option Byte := Memory.get? s.mem a.toNat

end Sys2Proof.Machine
end

