-- ==== Sys2Proof/Machine/Ops.lean ====
section
/-!
DEFINITION. The named operations over memory and registers: sequencing, `MemRead` and `MemWrite` under the memory map (R6, R46),
the pointer reads (R38), the stack (R36), the advance of PC (R71), and taking an exception and returning from one (R306, R307,
R340).
-/

namespace Sys2Proof.Machine

/-- Do one operation after another; a fault or a refusal ends both. -/
def andThen {α β : Type} (o : Out α) (f : α → Out β) : Out β :=
  match o with
  | .next a => f a
  | .fault r => .fault r
  | .refused r => .refused r

/-- `MemRead(addr, 1)` (rule R6) by the kind of the cell (rule R46). A device cell is answered by the host, a free value; a
device cell whose reads have side effects is refused (rule R45). -/
def State.read (a : Addr) (s : State) : Out (Byte × State) :=
  match s.kindAt a with
  | .ram | .rom =>
    match s.peek a with
    | some b => .next (b, s)
    | none => .fault (.readOfUnspecified a)
  | .unmapped => .fault (.readOfUnmapped a)
  | .device false => .next (Config.deviceRead s.draws a, s.countDraw)
  | .device true => .refused (.deviceWithReadEffects a)

/-- `MemWrite(addr, 1, v)` (rule R6) by the kind of the cell (rule R46): RAM stores, ROM and unmapped cells ignore the write,
a device tells the host. -/
def State.write (a : Addr) (b : Byte) (s : State) : Out State :=
  match s.kindAt a with
  | .ram => .next (s.setMem (Memory.set s.mem a.toNat b))
  | .rom => .next s
  | .unmapped => .next s
  | .device false => .next (s.logDevice (a.toNat, b))
  | .device true => .refused (.deviceWithReadEffects a)

/-- Two bytes read one after the other, low byte first, as a word (rules R31, R38). -/
def State.readPair (low high : Addr) (s : State) : Out (Addr × State) :=
  andThen (s.read low) fun l =>
  andThen (l.2.read high) fun h =>
  .next (word h.1 l.1, h.2)

/-- `Read16(a)` of rule R38. -/
def State.read16 (a : Addr) (s : State) : Out (Addr × State) := s.readPair a (a + 1)

/-- `Read16ZP(z)` of rule R38: wraps inside the zero page. -/
def State.read16ZP (z : Byte) (s : State) : Out (Addr × State) := s.readPair (zext16 z) (zext16 (z + 1))

/-- `Read16Bug(a)` of rule R38: the page of `a` is kept. -/
def State.read16Bug (a : Addr) (s : State) : Out (Addr × State) := s.readPair a (word (hi a) (lo a + 1))

/-- `Push(v)` of rule R36: write, then decrement. -/
def State.push (b : Byte) (s : State) : Out State :=
  andThen (s.write (stackAddr s.sp) b) fun s₁ => .next (s₁.setSp (s.sp - 1))

/-- `Pull()` of rule R36: increment, then read. -/
def State.pull (s : State) : Out (Byte × State) := (s.setSp (s.sp + 1)).read (stackAddr (s.sp + 1))

/-- Push a word, high byte first (rules R31, R141). -/
def State.pushWord (w : Addr) (s : State) : Out State :=
  andThen (s.push (hi w)) fun s₁ => s₁.push (lo w)

/-- Pull a word, low byte first (rules R168, R169). -/
def State.pullWord (s : State) : Out (Addr × State) :=
  andThen s.pull fun l => andThen l.2.pull fun h => .next (word h.1 l.1, h.2)

/-- `PC <- (PC + len) mod 65536` (rule R71). -/
def State.advance (len : Nat) (s : State) : State := s.setPc (s.pc + BitVec.ofNat 16 len)

/-- The vectors of rule R37. -/
def nmiVector : Addr := 0xFFFA
/-- The vectors of rule R37. -/
def resetVector : Addr := 0xFFFC
/-- The vectors of rule R37. -/
def irqVector : Addr := 0xFFFE

/-- `Entry(vector, b)` of rule R306, with the return address it saves: push PC high, PC low and the status byte with B = `b`,
then set I and load PC from the vector. BRK is this with `b = 1` and `PC + 2` (rule R120). -/
def State.takeException (vector ret : Addr) (b : Bool) (s : State) : Out State :=
  andThen (s.pushWord ret) fun s₁ =>
  andThen (s₁.push (pByte b s₁)) fun s₂ =>
  andThen ((s₂.setI true).read16 vector) fun t =>
  .next (t.2.setPc t.1)

/-- The return from an exception (rules R168, R307): pull the status byte, then PC low and PC high, and resume there. -/
def State.returnFromException (s : State) : Out State :=
  andThen s.pull fun p =>
  andThen (p.2.setP p.1).pullWord fun w =>
  .next (w.2.setPc w.1)

/-- NMI entry (rule R303): the pending bit is cleared; 7 cycles (rule R306). -/
def State.takeNmi (s : State) : Out State :=
  andThen (s.clearNmi.takeException nmiVector s.pc false) fun t => .next (t.addCycles 7)

/-- IRQ entry (rule R302); 7 cycles (rule R306). -/
def State.takeIrq (s : State) : Out State :=
  andThen (s.takeException irqVector s.pc false) fun t => .next (t.addCycles 7)

/-- The registers and flags that rule R28 leaves unspecified after a RESET hold free values (log entry 4). -/
def State.unspecify (q : ResetRegisters) (s : State) : State :=
  { s with a := q.a, x := q.x, y := q.y, sp := q.sp, n := q.n, v := q.v, d := q.d, z := q.z, c := q.c }

/-- The conditions a RESET clears: jammed (rule R304), the pending NMI (rule R28), the request itself. -/
def State.clearConditions (s : State) : State :=
  { s with jammed := false, nmiPending := false, resetPending := false }

/-- `Reset()` of rule R340: I is set, PC comes from the reset vector, the jammed condition ends, nothing is pushed or
written; 7 cycles. -/
def State.takeReset (s : State) : Out State :=
  andThen ((((s.unspecify (Config.afterReset s.draws)).countDraw.clearConditions).setI true).read16 resetVector) fun t =>
  .next ((t.2.setPc t.1).addCycles 7)

end Sys2Proof.Machine
end

