-- ==== Sys2Proof/Machine/Operands.lean ====
section
/-!
DEFINITION. Every operand form: the effective address of each addressing mode (rules R53 to R65), reading an operand byte `M`,
and the read-modify-write of a memory byte (rules R34, R199).
-/

namespace Sys2Proof.Machine

/-- What rules R56 to R64 give for a mode: the effective address, and whether a page is crossed. -/
structure Located where
  ea : Addr
  crossed : Bool
deriving DecidableEq, Repr

/-- The indexed address `(base + index) mod 65536` of rules R60, R61, R64. A page is crossed when the high bytes of the sum and
of the base differ. When it is, the real part also reads the un-carried address, the same position of the previous page:
rule R45 has the model refuse the instruction if that cell is a device with read side effects. DESIGN CHOICE (log entry 34): this
refusal comes before any other stop the instruction has for that address. -/
def State.indexed (base : Addr) (index : Byte) (s : State) : Out (Located × State) :=
  let ea := base + zext16 index
  let uncarried := word (hi base) (lo ea)
  if s.kindAt uncarried = .device true then .refused (.deviceWithReadEffects uncarried)
  else .next (⟨ea, decide (hi ea ≠ hi base)⟩, s)

/-- The effective address of a memory operand (rules R56 to R61, R63, R64). -/
def State.locate (m : MemMode) (s : State) : Out (Located × State) :=
  match m with
  | .zeroPage b => .next (⟨zext16 b, false⟩, s)
  | .zeroPageX b => .next (⟨zext16 (b + s.x), false⟩, s)
  | .zeroPageY b => .next (⟨zext16 (b + s.y), false⟩, s)
  | .absolute a => .next (⟨a, false⟩, s)
  | .absoluteX a => s.indexed a s.x
  | .absoluteY a => s.indexed a s.y
  | .indirectX b => andThen (s.read16ZP (b + s.x)) fun p => .next (⟨p.1, false⟩, p.2)
  | .indirectY b => andThen (s.read16ZP b) fun p => p.2.indexed p.1 s.y

/-- The operand byte `M` of rule R6: the immediate byte, or the byte at the effective address. -/
def State.readSource (r : Source) (s : State) : Out (Byte × State) :=
  match r with
  | .immediate b => .next (b, s)
  | .memory m => andThen (s.locate m) fun l => l.2.read l.1.ea

/-- Store a byte at the effective address of a memory operand. -/
def State.store (m : MemMode) (b : Byte) (s : State) : Out State :=
  andThen (s.locate m) fun l => l.2.write l.1.ea b

/-- One read and one write of the byte at the effective address, which is computed once (rules R34, R199). Answers the byte
read. -/
def State.modify (m : MemMode) (f : Byte → Byte) (s : State) : Out (Byte × State) :=
  andThen (s.locate m) fun l =>
  andThen (l.2.read l.1.ea) fun b =>
  andThen (b.2.write l.1.ea (f b.1)) fun t =>
  .next (b.1, t)

end Sys2Proof.Machine
end

