-- ==== Sys2Proof/Machine/Arithmetic.lean ====
section
/-!
DEFINITION. ADC, SBC and the compares CMP, CPX, CPY (rules R100, R170, R121 to R124), each once over its operand forms.
-/

namespace Sys2Proof.Machine

/-- ADC (rule R100): add the operand byte and C to A, decimal when D = 1 (rule R93). -/
def adc (r : Source) (s : State) : Out State :=
  andThen (s.readSource r) fun m =>
  andThen (addResult s.params.decimalMode s.d s.a m.1 s.c) fun q =>
  .next ((m.2.setArith q).advance r.length)

/-- SBC (rule R170): subtract the operand byte and the borrow from A, decimal when D = 1 (rule R93). -/
def sbc (r : Source) (s : State) : Out State :=
  andThen (s.readSource r) fun m =>
  andThen (subResult s.params.decimalMode s.d s.a m.1 s.c) fun q =>
  .next ((m.2.setArith q).advance r.length)

/-- The common rule of CMP, CPX and CPY (rule R121) for the register value `reg`. -/
def compareWith (reg : Byte) (r : Source) (s : State) : Out State :=
  andThen (s.readSource r) fun m => .next ((m.2.setCompare reg m.1).advance r.length)

/-- `$61`: ADC Indirect,X (rules R100, R63). -/
def execAdcIndX (zp : Byte) (s : State) : Out State := adc (.memory (.indirectX zp)) s
/-- `$65`: ADC Zero Page (rules R100, R56). -/
def execAdcZp (zp : Byte) (s : State) : Out State := adc (.memory (.zeroPage zp)) s
/-- `$69`: ADC Immediate (rules R100, R55). -/
def execAdcImm (imm : Byte) (s : State) : Out State := adc (.immediate imm) s
/-- `$6D`: ADC Absolute (rules R100, R59). -/
def execAdcAbs (addr : Addr) (s : State) : Out State := adc (.memory (.absolute addr)) s
/-- `$71`: ADC Indirect,Y (rules R100, R64). -/
def execAdcIndY (zp : Byte) (s : State) : Out State := adc (.memory (.indirectY zp)) s
/-- `$75`: ADC Zero Page,X (rules R100, R57). -/
def execAdcZpX (zp : Byte) (s : State) : Out State := adc (.memory (.zeroPageX zp)) s
/-- `$79`: ADC Absolute,Y (rules R100, R61). -/
def execAdcAbsY (addr : Addr) (s : State) : Out State := adc (.memory (.absoluteY addr)) s
/-- `$7D`: ADC Absolute,X (rules R100, R60). -/
def execAdcAbsX (addr : Addr) (s : State) : Out State := adc (.memory (.absoluteX addr)) s

/-- `$E1`: SBC Indirect,X (rules R170, R63). -/
def execSbcIndX (zp : Byte) (s : State) : Out State := sbc (.memory (.indirectX zp)) s
/-- `$E5`: SBC Zero Page (rules R170, R56). -/
def execSbcZp (zp : Byte) (s : State) : Out State := sbc (.memory (.zeroPage zp)) s
/-- `$E9`: SBC Immediate (rules R170, R55). -/
def execSbcImm (imm : Byte) (s : State) : Out State := sbc (.immediate imm) s
/-- `$ED`: SBC Absolute (rules R170, R59). -/
def execSbcAbs (addr : Addr) (s : State) : Out State := sbc (.memory (.absolute addr)) s
/-- `$F1`: SBC Indirect,Y (rules R170, R64). -/
def execSbcIndY (zp : Byte) (s : State) : Out State := sbc (.memory (.indirectY zp)) s
/-- `$F5`: SBC Zero Page,X (rules R170, R57). -/
def execSbcZpX (zp : Byte) (s : State) : Out State := sbc (.memory (.zeroPageX zp)) s
/-- `$F9`: SBC Absolute,Y (rules R170, R61). -/
def execSbcAbsY (addr : Addr) (s : State) : Out State := sbc (.memory (.absoluteY addr)) s
/-- `$FD`: SBC Absolute,X (rules R170, R60). -/
def execSbcAbsX (addr : Addr) (s : State) : Out State := sbc (.memory (.absoluteX addr)) s

/-- `$C1`: CMP Indirect,X (rules R122, R63). -/
def execCmpIndX (zp : Byte) (s : State) : Out State := compareWith s.a (.memory (.indirectX zp)) s
/-- `$C5`: CMP Zero Page (rules R122, R56). -/
def execCmpZp (zp : Byte) (s : State) : Out State := compareWith s.a (.memory (.zeroPage zp)) s
/-- `$C9`: CMP Immediate (rules R122, R55). -/
def execCmpImm (imm : Byte) (s : State) : Out State := compareWith s.a (.immediate imm) s
/-- `$CD`: CMP Absolute (rules R122, R59). -/
def execCmpAbs (addr : Addr) (s : State) : Out State := compareWith s.a (.memory (.absolute addr)) s
/-- `$D1`: CMP Indirect,Y (rules R122, R64). -/
def execCmpIndY (zp : Byte) (s : State) : Out State := compareWith s.a (.memory (.indirectY zp)) s
/-- `$D5`: CMP Zero Page,X (rules R122, R57). -/
def execCmpZpX (zp : Byte) (s : State) : Out State := compareWith s.a (.memory (.zeroPageX zp)) s
/-- `$D9`: CMP Absolute,Y (rules R122, R61). -/
def execCmpAbsY (addr : Addr) (s : State) : Out State := compareWith s.a (.memory (.absoluteY addr)) s
/-- `$DD`: CMP Absolute,X (rules R122, R60). -/
def execCmpAbsX (addr : Addr) (s : State) : Out State := compareWith s.a (.memory (.absoluteX addr)) s

/-- `$E0`: CPX Immediate (rules R123, R55). -/
def execCpxImm (imm : Byte) (s : State) : Out State := compareWith s.x (.immediate imm) s
/-- `$E4`: CPX Zero Page (rules R123, R56). -/
def execCpxZp (zp : Byte) (s : State) : Out State := compareWith s.x (.memory (.zeroPage zp)) s
/-- `$EC`: CPX Absolute (rules R123, R59). -/
def execCpxAbs (addr : Addr) (s : State) : Out State := compareWith s.x (.memory (.absolute addr)) s

/-- `$C0`: CPY Immediate (rules R124, R55). -/
def execCpyImm (imm : Byte) (s : State) : Out State := compareWith s.y (.immediate imm) s
/-- `$C4`: CPY Zero Page (rules R124, R56). -/
def execCpyZp (zp : Byte) (s : State) : Out State := compareWith s.y (.memory (.zeroPage zp)) s
/-- `$CC`: CPY Absolute (rules R124, R59). -/
def execCpyAbs (addr : Addr) (s : State) : Out State := compareWith s.y (.memory (.absolute addr)) s

end Sys2Proof.Machine
end

