-- ==== Sys2Proof/Machine/Control.lean ====
section
/-!
DEFINITION. The branches (rules R103 to R111), JMP, JSR, RTS, RTI and BRK (rules R140, R141, R169, R168, R120).
-/

namespace Sys2Proof.Machine

/-- The common rule of the branches (rule R103): the offset counts from the instruction after the branch. -/
def branch (taken : Bool) (offset : Byte) (s : State) : Out State :=
  .next (s.setPc (if taken then s.pc + 2 + sext16 offset else s.pc + 2))

/-- `$90`: BCC Relative (rules R104, R65). -/
def execBcc (offset : Byte) (s : State) : Out State := branch (!s.c) offset s
/-- `$B0`: BCS Relative (rules R105, R65). -/
def execBcs (offset : Byte) (s : State) : Out State := branch s.c offset s
/-- `$F0`: BEQ Relative (rules R106, R65). -/
def execBeq (offset : Byte) (s : State) : Out State := branch s.z offset s
/-- `$D0`: BNE Relative (rules R107, R65). -/
def execBne (offset : Byte) (s : State) : Out State := branch (!s.z) offset s
/-- `$30`: BMI Relative (rules R108, R65). -/
def execBmi (offset : Byte) (s : State) : Out State := branch s.n offset s
/-- `$10`: BPL Relative (rules R109, R65). -/
def execBpl (offset : Byte) (s : State) : Out State := branch (!s.n) offset s
/-- `$50`: BVC Relative (rules R110, R65). -/
def execBvc (offset : Byte) (s : State) : Out State := branch (!s.v) offset s
/-- `$70`: BVS Relative (rules R111, R65). -/
def execBvs (offset : Byte) (s : State) : Out State := branch s.v offset s
/-- `$4C`: JMP Absolute (rules R140, R59). -/
def execJmpAbs (addr : Addr) (s : State) : Out State := .next (s.setPc addr)
/-- `$6C`: JMP Indirect (rules R140, R62): a pointer at a page end takes its high byte from the same page. -/
def execJmpInd (addr : Addr) (s : State) : Out State := andThen (s.read16Bug addr) fun p => .next (p.2.setPc p.1)
/-- `$20`: JSR (rule R141): the address of its own last byte is pushed, high byte first. -/
def execJsr (addr : Addr) (s : State) : Out State := andThen (s.pushWord (s.pc + 2)) fun t => .next (t.setPc addr)
/-- `$60`: RTS (rule R169): the pulled address plus 1. -/
def execRts (s : State) : Out State := andThen s.pullWord fun p => .next (p.2.setPc (p.1 + 1))
/-- `$40`: RTI (rule R168). -/
def execRti (s : State) : Out State := s.returnFromException
/-- `$00`: BRK (rules R120, R301): the exception entry with B = 1 and the return address PC + 2. -/
def execBrk (s : State) : Out State := s.takeException irqVector (s.pc + 2) true

end Sys2Proof.Machine
end

