-- ==== Sys2Proof/Machine/Illegal.lean ====
section
/-!
DEFINITION. The stable illegal opcodes (rules R199 to R211).
-/

namespace Sys2Proof.Machine

/-- The common shape of SLO, RLA and SRE (rules R200 to R202): shift the memory byte, then combine the result with A. C is the
bit shifted out, N and Z describe the new A. -/
def shiftThenLogic (f : Shift) (g : Byte → Byte → Byte) (m : MemMode) (s : State) : Out State :=
  andThen (s.modify m fun b => (f b s.c).1) fun q =>
  let r := g s.a (f q.1 s.c).1
  .next ((((q.2.setC (f q.1 s.c).2).setA r).setNZ r).advance m.length)

/-- RRA (rule R203): ROR of the memory byte, then ADC of the result with the carry the rotation gave. -/
def rra (m : MemMode) (s : State) : Out State :=
  andThen (s.modify m fun b => (ror b s.c).1) fun q =>
  andThen (addResult s.params.decimalMode s.d s.a (ror q.1 s.c).1 (ror q.1 s.c).2) fun e =>
  .next ((q.2.setArith e).advance m.length)

/-- ISC (rule R207): INC of the memory byte, then SBC of the result with the incoming C. -/
def isc (m : MemMode) (s : State) : Out State :=
  andThen (s.modify m (· + 1)) fun q =>
  andThen (subResult s.params.decimalMode s.d s.a (q.1 + 1) s.c) fun e =>
  .next ((q.2.setArith e).advance m.length)

/-- DCP (rule R206): DEC of the memory byte, then CMP of A with the result. -/
def dcp (m : MemMode) (s : State) : Out State :=
  andThen (s.modify m (· - 1)) fun q => .next ((q.2.setCompare s.a (q.1 - 1)).advance m.length)

/-- LAX (rule R205): A and X take the operand byte. -/
def lax (r : Source) (s : State) : Out State :=
  andThen (s.readSource r) fun m => .next ((((m.2.setA m.1).setX m.1).setNZ m.1).advance r.length)

/-- SAX (rule R204): `A & X` goes to the effective address; no flag changes. -/
def sax (m : MemMode) (s : State) : Out State :=
  andThen (s.store m (s.a &&& s.x)) fun t => .next (t.advance m.length)

/-- ANC (rule R208): AND, then C is a copy of N. -/
def anc (imm : Byte) (s : State) : Out State :=
  let r := s.a &&& imm
  .next ((((s.setA r).setNZ r).setC (bit r 7)).advance 2)

/-- `$03`: SLO Indirect,X (rules R200, R63). -/
def execSloIndX (zp : Byte) (s : State) : Out State := shiftThenLogic asl (· ||| ·) (.indirectX zp) s
/-- `$07`: SLO Zero Page (rules R200, R56). -/
def execSloZp (zp : Byte) (s : State) : Out State := shiftThenLogic asl (· ||| ·) (.zeroPage zp) s
/-- `$0F`: SLO Absolute (rules R200, R59). -/
def execSloAbs (addr : Addr) (s : State) : Out State := shiftThenLogic asl (· ||| ·) (.absolute addr) s
/-- `$13`: SLO Indirect,Y (rules R200, R64). -/
def execSloIndY (zp : Byte) (s : State) : Out State := shiftThenLogic asl (· ||| ·) (.indirectY zp) s
/-- `$17`: SLO Zero Page,X (rules R200, R57). -/
def execSloZpX (zp : Byte) (s : State) : Out State := shiftThenLogic asl (· ||| ·) (.zeroPageX zp) s
/-- `$1B`: SLO Absolute,Y (rules R200, R61). -/
def execSloAbsY (addr : Addr) (s : State) : Out State := shiftThenLogic asl (· ||| ·) (.absoluteY addr) s
/-- `$1F`: SLO Absolute,X (rules R200, R60). -/
def execSloAbsX (addr : Addr) (s : State) : Out State := shiftThenLogic asl (· ||| ·) (.absoluteX addr) s

/-- `$23`: RLA Indirect,X (rules R201, R63). -/
def execRlaIndX (zp : Byte) (s : State) : Out State := shiftThenLogic rol (· &&& ·) (.indirectX zp) s
/-- `$27`: RLA Zero Page (rules R201, R56). -/
def execRlaZp (zp : Byte) (s : State) : Out State := shiftThenLogic rol (· &&& ·) (.zeroPage zp) s
/-- `$2F`: RLA Absolute (rules R201, R59). -/
def execRlaAbs (addr : Addr) (s : State) : Out State := shiftThenLogic rol (· &&& ·) (.absolute addr) s
/-- `$33`: RLA Indirect,Y (rules R201, R64). -/
def execRlaIndY (zp : Byte) (s : State) : Out State := shiftThenLogic rol (· &&& ·) (.indirectY zp) s
/-- `$37`: RLA Zero Page,X (rules R201, R57). -/
def execRlaZpX (zp : Byte) (s : State) : Out State := shiftThenLogic rol (· &&& ·) (.zeroPageX zp) s
/-- `$3B`: RLA Absolute,Y (rules R201, R61). -/
def execRlaAbsY (addr : Addr) (s : State) : Out State := shiftThenLogic rol (· &&& ·) (.absoluteY addr) s
/-- `$3F`: RLA Absolute,X (rules R201, R60). -/
def execRlaAbsX (addr : Addr) (s : State) : Out State := shiftThenLogic rol (· &&& ·) (.absoluteX addr) s

/-- `$43`: SRE Indirect,X (rules R202, R63). -/
def execSreIndX (zp : Byte) (s : State) : Out State := shiftThenLogic lsr (· ^^^ ·) (.indirectX zp) s
/-- `$47`: SRE Zero Page (rules R202, R56). -/
def execSreZp (zp : Byte) (s : State) : Out State := shiftThenLogic lsr (· ^^^ ·) (.zeroPage zp) s
/-- `$4F`: SRE Absolute (rules R202, R59). -/
def execSreAbs (addr : Addr) (s : State) : Out State := shiftThenLogic lsr (· ^^^ ·) (.absolute addr) s
/-- `$53`: SRE Indirect,Y (rules R202, R64). -/
def execSreIndY (zp : Byte) (s : State) : Out State := shiftThenLogic lsr (· ^^^ ·) (.indirectY zp) s
/-- `$57`: SRE Zero Page,X (rules R202, R57). -/
def execSreZpX (zp : Byte) (s : State) : Out State := shiftThenLogic lsr (· ^^^ ·) (.zeroPageX zp) s
/-- `$5B`: SRE Absolute,Y (rules R202, R61). -/
def execSreAbsY (addr : Addr) (s : State) : Out State := shiftThenLogic lsr (· ^^^ ·) (.absoluteY addr) s
/-- `$5F`: SRE Absolute,X (rules R202, R60). -/
def execSreAbsX (addr : Addr) (s : State) : Out State := shiftThenLogic lsr (· ^^^ ·) (.absoluteX addr) s

/-- `$63`: RRA Indirect,X (rules R203, R63). -/
def execRraIndX (zp : Byte) (s : State) : Out State := rra (.indirectX zp) s
/-- `$67`: RRA Zero Page (rules R203, R56). -/
def execRraZp (zp : Byte) (s : State) : Out State := rra (.zeroPage zp) s
/-- `$6F`: RRA Absolute (rules R203, R59). -/
def execRraAbs (addr : Addr) (s : State) : Out State := rra (.absolute addr) s
/-- `$73`: RRA Indirect,Y (rules R203, R64). -/
def execRraIndY (zp : Byte) (s : State) : Out State := rra (.indirectY zp) s
/-- `$77`: RRA Zero Page,X (rules R203, R57). -/
def execRraZpX (zp : Byte) (s : State) : Out State := rra (.zeroPageX zp) s
/-- `$7B`: RRA Absolute,Y (rules R203, R61). -/
def execRraAbsY (addr : Addr) (s : State) : Out State := rra (.absoluteY addr) s
/-- `$7F`: RRA Absolute,X (rules R203, R60). -/
def execRraAbsX (addr : Addr) (s : State) : Out State := rra (.absoluteX addr) s

/-- `$E3`: ISC Indirect,X (rules R207, R63). -/
def execIscIndX (zp : Byte) (s : State) : Out State := isc (.indirectX zp) s
/-- `$E7`: ISC Zero Page (rules R207, R56). -/
def execIscZp (zp : Byte) (s : State) : Out State := isc (.zeroPage zp) s
/-- `$EF`: ISC Absolute (rules R207, R59). -/
def execIscAbs (addr : Addr) (s : State) : Out State := isc (.absolute addr) s
/-- `$F3`: ISC Indirect,Y (rules R207, R64). -/
def execIscIndY (zp : Byte) (s : State) : Out State := isc (.indirectY zp) s
/-- `$F7`: ISC Zero Page,X (rules R207, R57). -/
def execIscZpX (zp : Byte) (s : State) : Out State := isc (.zeroPageX zp) s
/-- `$FB`: ISC Absolute,Y (rules R207, R61). -/
def execIscAbsY (addr : Addr) (s : State) : Out State := isc (.absoluteY addr) s
/-- `$FF`: ISC Absolute,X (rules R207, R60). -/
def execIscAbsX (addr : Addr) (s : State) : Out State := isc (.absoluteX addr) s

/-- `$C3`: DCP Indirect,X (rules R206, R63). -/
def execDcpIndX (zp : Byte) (s : State) : Out State := dcp (.indirectX zp) s
/-- `$C7`: DCP Zero Page (rules R206, R56). -/
def execDcpZp (zp : Byte) (s : State) : Out State := dcp (.zeroPage zp) s
/-- `$CF`: DCP Absolute (rules R206, R59). -/
def execDcpAbs (addr : Addr) (s : State) : Out State := dcp (.absolute addr) s
/-- `$D3`: DCP Indirect,Y (rules R206, R64). -/
def execDcpIndY (zp : Byte) (s : State) : Out State := dcp (.indirectY zp) s
/-- `$D7`: DCP Zero Page,X (rules R206, R57). -/
def execDcpZpX (zp : Byte) (s : State) : Out State := dcp (.zeroPageX zp) s
/-- `$DB`: DCP Absolute,Y (rules R206, R61). -/
def execDcpAbsY (addr : Addr) (s : State) : Out State := dcp (.absoluteY addr) s
/-- `$DF`: DCP Absolute,X (rules R206, R60). -/
def execDcpAbsX (addr : Addr) (s : State) : Out State := dcp (.absoluteX addr) s

/-- `$A3`: LAX Indirect,X (rules R205, R63). -/
def execLaxIndX (zp : Byte) (s : State) : Out State := lax (.memory (.indirectX zp)) s
/-- `$A7`: LAX Zero Page (rules R205, R56). -/
def execLaxZp (zp : Byte) (s : State) : Out State := lax (.memory (.zeroPage zp)) s
/-- `$AF`: LAX Absolute (rules R205, R59). -/
def execLaxAbs (addr : Addr) (s : State) : Out State := lax (.memory (.absolute addr)) s
/-- `$B3`: LAX Indirect,Y (rules R205, R64). -/
def execLaxIndY (zp : Byte) (s : State) : Out State := lax (.memory (.indirectY zp)) s
/-- `$B7`: LAX Zero Page,Y (rules R205, R58). -/
def execLaxZpY (zp : Byte) (s : State) : Out State := lax (.memory (.zeroPageY zp)) s
/-- `$BF`: LAX Absolute,Y (rules R205, R61). -/
def execLaxAbsY (addr : Addr) (s : State) : Out State := lax (.memory (.absoluteY addr)) s

/-- `$83`: SAX Indirect,X (rules R204, R63). -/
def execSaxIndX (zp : Byte) (s : State) : Out State := sax (.indirectX zp) s
/-- `$87`: SAX Zero Page (rules R204, R56). -/
def execSaxZp (zp : Byte) (s : State) : Out State := sax (.zeroPage zp) s
/-- `$8F`: SAX Absolute (rules R204, R59). -/
def execSaxAbs (addr : Addr) (s : State) : Out State := sax (.absolute addr) s
/-- `$97`: SAX Zero Page,Y (rules R204, R58). -/
def execSaxZpY (zp : Byte) (s : State) : Out State := sax (.zeroPageY zp) s

/-- `$0B`: ANC Immediate (rules R208, R55). -/
def execAnc0B (imm : Byte) (s : State) : Out State := anc imm s
/-- `$2B`: ANC Immediate (rules R208, R55). -/
def execAnc2B (imm : Byte) (s : State) : Out State := anc imm s

/-- `$4B`: ALR Immediate (rules R209, R55): AND, then LSR of A. -/
def execAlr (imm : Byte) (s : State) : Out State :=
  let q := lsr (s.a &&& imm) s.c
  .next ((((s.setA q.1).setC q.2).setNZ q.1).advance 2)

/-- `$6B`: ARR Immediate (rules R210, R55). -/
def execArr (imm : Byte) (s : State) : Out State :=
  if s.d then
    andThen (inDecimalMode s.params.decimalMode fun g => decimalArr g s.a imm s.c) fun q =>
    .next ((s.setArith q).advance 2)
  else
    let q := arrCarry (s.a &&& imm) s
    .next ((q.2.setArith (binaryArr (s.a &&& imm) s.c q.1)).advance 2)

/-- `$CB`: SBX Immediate (rules R211, R55): the flags of a compare of `A & X` with the immediate byte, the difference to X. -/
def execSbx (imm : Byte) (s : State) : Out State :=
  let t := s.a &&& s.x
  .next (((s.setCompare t imm).setX (t - imm)).advance 2)

end Sys2Proof.Machine
end

