-- ==== Sys2Proof/Machine/LoadStore.lean ====
section
/-!
DEFINITION. The loads LDA, LDX, LDY (rules R142 to R144) and the stores STA, STX, STY (rules R175 to R177).
-/

namespace Sys2Proof.Machine

/-- The common shape of the loads: the register named by `set` takes the operand byte, N and Z describe it. -/
def load (set : Byte → State → State) (r : Source) (s : State) : Out State :=
  andThen (s.readSource r) fun m => .next (((set m.1 m.2).setNZ m.1).advance r.length)

/-- The common shape of the stores: a byte goes to the effective address, no flag changes. -/
def storeByte (b : Byte) (m : MemMode) (s : State) : Out State :=
  andThen (s.store m b) fun t => .next (t.advance m.length)

/-- `$A1`: LDA Indirect,X (rules R142, R63). -/
def execLdaIndX (zp : Byte) (s : State) : Out State := load State.setA (.memory (.indirectX zp)) s
/-- `$A5`: LDA Zero Page (rules R142, R56). -/
def execLdaZp (zp : Byte) (s : State) : Out State := load State.setA (.memory (.zeroPage zp)) s
/-- `$A9`: LDA Immediate (rules R142, R55). -/
def execLdaImm (imm : Byte) (s : State) : Out State := load State.setA (.immediate imm) s
/-- `$AD`: LDA Absolute (rules R142, R59). -/
def execLdaAbs (addr : Addr) (s : State) : Out State := load State.setA (.memory (.absolute addr)) s
/-- `$B1`: LDA Indirect,Y (rules R142, R64). -/
def execLdaIndY (zp : Byte) (s : State) : Out State := load State.setA (.memory (.indirectY zp)) s
/-- `$B5`: LDA Zero Page,X (rules R142, R57). -/
def execLdaZpX (zp : Byte) (s : State) : Out State := load State.setA (.memory (.zeroPageX zp)) s
/-- `$B9`: LDA Absolute,Y (rules R142, R61). -/
def execLdaAbsY (addr : Addr) (s : State) : Out State := load State.setA (.memory (.absoluteY addr)) s
/-- `$BD`: LDA Absolute,X (rules R142, R60). -/
def execLdaAbsX (addr : Addr) (s : State) : Out State := load State.setA (.memory (.absoluteX addr)) s

/-- `$A2`: LDX Immediate (rules R143, R55). -/
def execLdxImm (imm : Byte) (s : State) : Out State := load State.setX (.immediate imm) s
/-- `$A6`: LDX Zero Page (rules R143, R56). -/
def execLdxZp (zp : Byte) (s : State) : Out State := load State.setX (.memory (.zeroPage zp)) s
/-- `$AE`: LDX Absolute (rules R143, R59). -/
def execLdxAbs (addr : Addr) (s : State) : Out State := load State.setX (.memory (.absolute addr)) s
/-- `$B6`: LDX Zero Page,Y (rules R143, R58). -/
def execLdxZpY (zp : Byte) (s : State) : Out State := load State.setX (.memory (.zeroPageY zp)) s
/-- `$BE`: LDX Absolute,Y (rules R143, R61). -/
def execLdxAbsY (addr : Addr) (s : State) : Out State := load State.setX (.memory (.absoluteY addr)) s

/-- `$A0`: LDY Immediate (rules R144, R55). -/
def execLdyImm (imm : Byte) (s : State) : Out State := load State.setY (.immediate imm) s
/-- `$A4`: LDY Zero Page (rules R144, R56). -/
def execLdyZp (zp : Byte) (s : State) : Out State := load State.setY (.memory (.zeroPage zp)) s
/-- `$AC`: LDY Absolute (rules R144, R59). -/
def execLdyAbs (addr : Addr) (s : State) : Out State := load State.setY (.memory (.absolute addr)) s
/-- `$B4`: LDY Zero Page,X (rules R144, R57). -/
def execLdyZpX (zp : Byte) (s : State) : Out State := load State.setY (.memory (.zeroPageX zp)) s
/-- `$BC`: LDY Absolute,X (rules R144, R60). -/
def execLdyAbsX (addr : Addr) (s : State) : Out State := load State.setY (.memory (.absoluteX addr)) s

/-- `$81`: STA Indirect,X (rules R175, R63). -/
def execStaIndX (zp : Byte) (s : State) : Out State := storeByte s.a (.indirectX zp) s
/-- `$85`: STA Zero Page (rules R175, R56). -/
def execStaZp (zp : Byte) (s : State) : Out State := storeByte s.a (.zeroPage zp) s
/-- `$8D`: STA Absolute (rules R175, R59). -/
def execStaAbs (addr : Addr) (s : State) : Out State := storeByte s.a (.absolute addr) s
/-- `$91`: STA Indirect,Y (rules R175, R64). -/
def execStaIndY (zp : Byte) (s : State) : Out State := storeByte s.a (.indirectY zp) s
/-- `$95`: STA Zero Page,X (rules R175, R57). -/
def execStaZpX (zp : Byte) (s : State) : Out State := storeByte s.a (.zeroPageX zp) s
/-- `$99`: STA Absolute,Y (rules R175, R61). -/
def execStaAbsY (addr : Addr) (s : State) : Out State := storeByte s.a (.absoluteY addr) s
/-- `$9D`: STA Absolute,X (rules R175, R60). -/
def execStaAbsX (addr : Addr) (s : State) : Out State := storeByte s.a (.absoluteX addr) s

/-- `$86`: STX Zero Page (rules R176, R56). -/
def execStxZp (zp : Byte) (s : State) : Out State := storeByte s.x (.zeroPage zp) s
/-- `$8E`: STX Absolute (rules R176, R59). -/
def execStxAbs (addr : Addr) (s : State) : Out State := storeByte s.x (.absolute addr) s
/-- `$96`: STX Zero Page,Y (rules R176, R58). -/
def execStxZpY (zp : Byte) (s : State) : Out State := storeByte s.x (.zeroPageY zp) s

/-- `$84`: STY Zero Page (rules R177, R56). -/
def execStyZp (zp : Byte) (s : State) : Out State := storeByte s.y (.zeroPage zp) s
/-- `$8C`: STY Absolute (rules R177, R59). -/
def execStyAbs (addr : Addr) (s : State) : Out State := storeByte s.y (.absolute addr) s
/-- `$94`: STY Zero Page,X (rules R177, R57). -/
def execStyZpX (zp : Byte) (s : State) : Out State := storeByte s.y (.zeroPageX zp) s

end Sys2Proof.Machine
end

