-- ==== Sys2Proof/Machine/Logic.lean ====
section
/-!
DEFINITION. AND, ORA, EOR and BIT (rules R101, R147, R131, R112).
-/

namespace Sys2Proof.Machine

/-- The common shape of AND, ORA and EOR (rules R101, R147, R131): `A <- A op M; SetNZ(A)`. -/
def logic (f : Byte → Byte → Byte) (r : Source) (s : State) : Out State :=
  andThen (s.readSource r) fun m => .next (((m.2.setA (f s.a m.1)).setNZ (f s.a m.1)).advance r.length)

/-- BIT (rule R112). -/
def bitTest (r : Source) (s : State) : Out State :=
  andThen (s.readSource r) fun m => .next ((m.2.setBitTest m.1).advance r.length)

/-- `$21`: AND Indirect,X (rules R101, R63). -/
def execAndIndX (zp : Byte) (s : State) : Out State := logic (· &&& ·) (.memory (.indirectX zp)) s
/-- `$25`: AND Zero Page (rules R101, R56). -/
def execAndZp (zp : Byte) (s : State) : Out State := logic (· &&& ·) (.memory (.zeroPage zp)) s
/-- `$29`: AND Immediate (rules R101, R55). -/
def execAndImm (imm : Byte) (s : State) : Out State := logic (· &&& ·) (.immediate imm) s
/-- `$2D`: AND Absolute (rules R101, R59). -/
def execAndAbs (addr : Addr) (s : State) : Out State := logic (· &&& ·) (.memory (.absolute addr)) s
/-- `$31`: AND Indirect,Y (rules R101, R64). -/
def execAndIndY (zp : Byte) (s : State) : Out State := logic (· &&& ·) (.memory (.indirectY zp)) s
/-- `$35`: AND Zero Page,X (rules R101, R57). -/
def execAndZpX (zp : Byte) (s : State) : Out State := logic (· &&& ·) (.memory (.zeroPageX zp)) s
/-- `$39`: AND Absolute,Y (rules R101, R61). -/
def execAndAbsY (addr : Addr) (s : State) : Out State := logic (· &&& ·) (.memory (.absoluteY addr)) s
/-- `$3D`: AND Absolute,X (rules R101, R60). -/
def execAndAbsX (addr : Addr) (s : State) : Out State := logic (· &&& ·) (.memory (.absoluteX addr)) s

/-- `$01`: ORA Indirect,X (rules R147, R63). -/
def execOraIndX (zp : Byte) (s : State) : Out State := logic (· ||| ·) (.memory (.indirectX zp)) s
/-- `$05`: ORA Zero Page (rules R147, R56). -/
def execOraZp (zp : Byte) (s : State) : Out State := logic (· ||| ·) (.memory (.zeroPage zp)) s
/-- `$09`: ORA Immediate (rules R147, R55). -/
def execOraImm (imm : Byte) (s : State) : Out State := logic (· ||| ·) (.immediate imm) s
/-- `$0D`: ORA Absolute (rules R147, R59). -/
def execOraAbs (addr : Addr) (s : State) : Out State := logic (· ||| ·) (.memory (.absolute addr)) s
/-- `$11`: ORA Indirect,Y (rules R147, R64). -/
def execOraIndY (zp : Byte) (s : State) : Out State := logic (· ||| ·) (.memory (.indirectY zp)) s
/-- `$15`: ORA Zero Page,X (rules R147, R57). -/
def execOraZpX (zp : Byte) (s : State) : Out State := logic (· ||| ·) (.memory (.zeroPageX zp)) s
/-- `$19`: ORA Absolute,Y (rules R147, R61). -/
def execOraAbsY (addr : Addr) (s : State) : Out State := logic (· ||| ·) (.memory (.absoluteY addr)) s
/-- `$1D`: ORA Absolute,X (rules R147, R60). -/
def execOraAbsX (addr : Addr) (s : State) : Out State := logic (· ||| ·) (.memory (.absoluteX addr)) s

/-- `$41`: EOR Indirect,X (rules R131, R63). -/
def execEorIndX (zp : Byte) (s : State) : Out State := logic (· ^^^ ·) (.memory (.indirectX zp)) s
/-- `$45`: EOR Zero Page (rules R131, R56). -/
def execEorZp (zp : Byte) (s : State) : Out State := logic (· ^^^ ·) (.memory (.zeroPage zp)) s
/-- `$49`: EOR Immediate (rules R131, R55). -/
def execEorImm (imm : Byte) (s : State) : Out State := logic (· ^^^ ·) (.immediate imm) s
/-- `$4D`: EOR Absolute (rules R131, R59). -/
def execEorAbs (addr : Addr) (s : State) : Out State := logic (· ^^^ ·) (.memory (.absolute addr)) s
/-- `$51`: EOR Indirect,Y (rules R131, R64). -/
def execEorIndY (zp : Byte) (s : State) : Out State := logic (· ^^^ ·) (.memory (.indirectY zp)) s
/-- `$55`: EOR Zero Page,X (rules R131, R57). -/
def execEorZpX (zp : Byte) (s : State) : Out State := logic (· ^^^ ·) (.memory (.zeroPageX zp)) s
/-- `$59`: EOR Absolute,Y (rules R131, R61). -/
def execEorAbsY (addr : Addr) (s : State) : Out State := logic (· ^^^ ·) (.memory (.absoluteY addr)) s
/-- `$5D`: EOR Absolute,X (rules R131, R60). -/
def execEorAbsX (addr : Addr) (s : State) : Out State := logic (· ^^^ ·) (.memory (.absoluteX addr)) s

/-- `$24`: BIT Zero Page (rules R112, R56). -/
def execBitZp (zp : Byte) (s : State) : Out State := bitTest (.memory (.zeroPage zp)) s
/-- `$2C`: BIT Absolute (rules R112, R59). -/
def execBitAbs (addr : Addr) (s : State) : Out State := bitTest (.memory (.absolute addr)) s

end Sys2Proof.Machine
end

