-- ==== Sys2Proof/Machine/MatrixOnly.lean ====
section
/-!
DEFINITION. The 42 opcodes the matrix names and no section details (rules R240 to R245): JAM, the illegal NOPs, SBC `$EB`, ANE, LAX `$AB`.
-/

namespace Sys2Proof.Machine

/-- JAM (rule R240): the jammed condition is set; PC, registers, flags and memory stay as they are. -/
def jam (s : State) : Out State := .next s.setJammed

/-- An illegal NOP without a memory operand (rules R241, R245): a no-operation of the length G15 gives, when `AdmitMatrixOnly`
is set. -/
def illegalNop (len : Nat) (s : State) : Out State :=
  if s.params.admitMatrixOnly then .next (s.advance len) else .refused .undetailedOpcode

/-- An illegal NOP with a memory operand (rules R241, R245): a no-operation of the length and the mode G15 gives. Its operand
read is not modelled, so an operand that addresses a device cell with read side effects is refused (rule R45). -/
def illegalNopAt (m : MemMode) (s : State) : Out State :=
  if s.params.admitMatrixOnly then
    andThen (s.locate m) fun l =>
    if l.2.kindAt l.1.ea = .device true then .refused (.deviceWithReadEffects l.1.ea) else .next (l.2.advance m.length)
  else .refused .undetailedOpcode

/-- `$02`: JAM (rule R240). -/
def execJam02 (s : State) : Out State := jam s
/-- `$12`: JAM (rule R240). -/
def execJam12 (s : State) : Out State := jam s
/-- `$22`: JAM (rule R240). -/
def execJam22 (s : State) : Out State := jam s
/-- `$32`: JAM (rule R240). -/
def execJam32 (s : State) : Out State := jam s
/-- `$42`: JAM (rule R240). -/
def execJam42 (s : State) : Out State := jam s
/-- `$52`: JAM (rule R240). -/
def execJam52 (s : State) : Out State := jam s
/-- `$62`: JAM (rule R240). -/
def execJam62 (s : State) : Out State := jam s
/-- `$72`: JAM (rule R240). -/
def execJam72 (s : State) : Out State := jam s
/-- `$92`: JAM (rule R240). -/
def execJam92 (s : State) : Out State := jam s
/-- `$B2`: JAM (rule R240). -/
def execJamB2 (s : State) : Out State := jam s
/-- `$D2`: JAM (rule R240). -/
def execJamD2 (s : State) : Out State := jam s
/-- `$F2`: JAM (rule R240). -/
def execJamF2 (s : State) : Out State := jam s

/-- `$04`: illegal NOP, Zero Page by G15 (rules R241, R45). -/
def execNop04 (zp : Byte) (s : State) : Out State := illegalNopAt (.zeroPage zp) s
/-- `$0C`: illegal NOP, Absolute by G15 (rules R241, R45). -/
def execNop0C (addr : Addr) (s : State) : Out State := illegalNopAt (.absolute addr) s
/-- `$14`: illegal NOP, Zero Page,X by G15 (rules R241, R45). -/
def execNop14 (zp : Byte) (s : State) : Out State := illegalNopAt (.zeroPageX zp) s
/-- `$1A`: illegal NOP, Implied by G15 (rule R241). -/
def execNop1A (s : State) : Out State := illegalNop 1 s
/-- `$1C`: illegal NOP, Absolute,X by G15 (rules R241, R45). -/
def execNop1C (addr : Addr) (s : State) : Out State := illegalNopAt (.absoluteX addr) s
/-- `$34`: illegal NOP, Zero Page,X by G15 (rules R241, R45). -/
def execNop34 (zp : Byte) (s : State) : Out State := illegalNopAt (.zeroPageX zp) s
/-- `$3A`: illegal NOP, Implied by G15 (rule R241). -/
def execNop3A (s : State) : Out State := illegalNop 1 s
/-- `$3C`: illegal NOP, Absolute,X by G15 (rules R241, R45). -/
def execNop3C (addr : Addr) (s : State) : Out State := illegalNopAt (.absoluteX addr) s
/-- `$44`: illegal NOP, Zero Page by G15 (rules R241, R45). -/
def execNop44 (zp : Byte) (s : State) : Out State := illegalNopAt (.zeroPage zp) s
/-- `$54`: illegal NOP, Zero Page,X by G15 (rules R241, R45). -/
def execNop54 (zp : Byte) (s : State) : Out State := illegalNopAt (.zeroPageX zp) s
/-- `$5A`: illegal NOP, Implied by G15 (rule R241). -/
def execNop5A (s : State) : Out State := illegalNop 1 s
/-- `$5C`: illegal NOP, Absolute,X by G15 (rules R241, R45). -/
def execNop5C (addr : Addr) (s : State) : Out State := illegalNopAt (.absoluteX addr) s
/-- `$64`: illegal NOP, Zero Page by G15 (rules R241, R45). -/
def execNop64 (zp : Byte) (s : State) : Out State := illegalNopAt (.zeroPage zp) s
/-- `$74`: illegal NOP, Zero Page,X by G15 (rules R241, R45). -/
def execNop74 (zp : Byte) (s : State) : Out State := illegalNopAt (.zeroPageX zp) s
/-- `$7A`: illegal NOP, Implied by G15 (rule R241). -/
def execNop7A (s : State) : Out State := illegalNop 1 s
/-- `$7C`: illegal NOP, Absolute,X by G15 (rules R241, R45). -/
def execNop7C (addr : Addr) (s : State) : Out State := illegalNopAt (.absoluteX addr) s
/-- `$80`: illegal NOP, Immediate by G15 (rule R241). -/
def execNop80 (_imm : Byte) (s : State) : Out State := illegalNop 2 s
/-- `$82`: illegal NOP, Immediate by G15 (rule R241). -/
def execNop82 (_imm : Byte) (s : State) : Out State := illegalNop 2 s
/-- `$89`: illegal NOP, Immediate by G15 (rule R241). -/
def execNop89 (_imm : Byte) (s : State) : Out State := illegalNop 2 s
/-- `$C2`: illegal NOP, Immediate by G15 (rule R241). -/
def execNopC2 (_imm : Byte) (s : State) : Out State := illegalNop 2 s
/-- `$D4`: illegal NOP, Zero Page,X by G15 (rules R241, R45). -/
def execNopD4 (zp : Byte) (s : State) : Out State := illegalNopAt (.zeroPageX zp) s
/-- `$DA`: illegal NOP, Implied by G15 (rule R241). -/
def execNopDA (s : State) : Out State := illegalNop 1 s
/-- `$DC`: illegal NOP, Absolute,X by G15 (rules R241, R45). -/
def execNopDC (addr : Addr) (s : State) : Out State := illegalNopAt (.absoluteX addr) s
/-- `$E2`: illegal NOP, Immediate by G15 (rule R241). -/
def execNopE2 (_imm : Byte) (s : State) : Out State := illegalNop 2 s
/-- `$F4`: illegal NOP, Zero Page,X by G15 (rules R241, R45). -/
def execNopF4 (zp : Byte) (s : State) : Out State := illegalNopAt (.zeroPageX zp) s
/-- `$FA`: illegal NOP, Implied by G15 (rule R241). -/
def execNopFA (s : State) : Out State := illegalNop 1 s
/-- `$FC`: illegal NOP, Absolute,X by G15 (rules R241, R45). -/
def execNopFC (addr : Addr) (s : State) : Out State := illegalNopAt (.absoluteX addr) s

/-- `$EB`: SBC in the matrix only (rules R244, R245): SBC Immediate when `AdmitMatrixOnly` is set. -/
def execSbcEB (imm : Byte) (s : State) : Out State :=
  if s.params.admitMatrixOnly then sbc (.immediate imm) s else .refused .undetailedOpcode

/-- `$8B`: ANE (rule R242): refused, whatever `AdmitMatrixOnly` holds. -/
def execAne (_s : State) : Out State := .refused .undetailedOpcode

/-- `$AB`: LAX in the matrix only (rule R243): refused, whatever `AdmitMatrixOnly` holds; never rule R205's meaning. -/
def execLaxAB (_s : State) : Out State := .refused .undetailedOpcode

end Sys2Proof.Machine
end

