-- ==== Sys2Proof/Machine/Registers.lean ====
section
/-!
DEFINITION. The one-byte register and flag instructions: the transfers (rules R160 to R165), INX, DEX, INY, DEY (rules R126, R127, R129,
R130), the flag instructions (rules R132 to R138) and NOP (rule R146).
-/

namespace Sys2Proof.Machine

/-- A register takes a value, N and Z describe it (rules R160 to R164, R126, R127, R129, R130). -/
def transfer (set : Byte → State → State) (b : Byte) (s : State) : Out State :=
  .next (((set b s).setNZ b).advance 1)

/-- `$AA`: TAX (rule R160). -/
def execTax (s : State) : Out State := transfer State.setX s.a s
/-- `$A8`: TAY (rule R161). -/
def execTay (s : State) : Out State := transfer State.setY s.a s
/-- `$8A`: TXA (rule R162). -/
def execTxa (s : State) : Out State := transfer State.setA s.x s
/-- `$98`: TYA (rule R163). -/
def execTya (s : State) : Out State := transfer State.setA s.y s
/-- `$BA`: TSX (rule R164). -/
def execTsx (s : State) : Out State := transfer State.setX s.sp s
/-- `$9A`: TXS, which affects no flag (rule R165). -/
def execTxs (s : State) : Out State := .next ((s.setSp s.x).advance 1)
/-- `$E8`: INX (rule R129). -/
def execInx (s : State) : Out State := transfer State.setX (s.x + 1) s
/-- `$CA`: DEX (rule R126). -/
def execDex (s : State) : Out State := transfer State.setX (s.x - 1) s
/-- `$C8`: INY (rule R130). -/
def execIny (s : State) : Out State := transfer State.setY (s.y + 1) s
/-- `$88`: DEY (rule R127). -/
def execDey (s : State) : Out State := transfer State.setY (s.y - 1) s
/-- `$18`: CLC (rule R132). -/
def execClc (s : State) : Out State := .next ((s.setC false).advance 1)
/-- `$38`: SEC (rule R133). -/
def execSec (s : State) : Out State := .next ((s.setC true).advance 1)
/-- `$D8`: CLD (rule R134). -/
def execCld (s : State) : Out State := .next ((s.setD false).advance 1)
/-- `$F8`: SED (rule R135). -/
def execSed (s : State) : Out State := .next ((s.setD true).advance 1)
/-- `$58`: CLI (rule R136). -/
def execCli (s : State) : Out State := .next ((s.setI false).advance 1)
/-- `$78`: SEI (rule R137). -/
def execSei (s : State) : Out State := .next ((s.setI true).advance 1)
/-- `$B8`: CLV (rule R138). -/
def execClv (s : State) : Out State := .next ((s.setV false).advance 1)
/-- `$EA`: NOP (rule R146). -/
def execNop (s : State) : Out State := .next (s.advance 1)

end Sys2Proof.Machine
end

