-- ==== Sys2Proof/Machine/Shifts.lean ====
section
/-!
DEFINITION. ASL, LSR, ROL, ROR (rules R102, R145, R166, R167) and INC, DEC (rules R128, R125).
-/

namespace Sys2Proof.Machine

/-- The common shape of ASL, LSR, ROL and ROR: the byte in A or in memory is replaced by the result, the bit shifted out goes
to C, N and Z describe the result. -/
def shiftPlace (f : Shift) (p : Place) (s : State) : Out State :=
  match p with
  | .accumulator => .next ((((s.setA (f s.a s.c).1).setC (f s.a s.c).2).setNZ (f s.a s.c).1).advance p.length)
  | .memory m =>
    andThen (s.modify m fun b => (f b s.c).1) fun q =>
    .next (((q.2.setC (f q.1 s.c).2).setNZ (f q.1 s.c).1).advance p.length)

/-- The common shape of INC and DEC: `delta` is added to the memory byte modulo 256 (rule R90), N and Z describe the
result. -/
def addToMemory (delta : Byte) (m : MemMode) (s : State) : Out State :=
  andThen (s.modify m (· + delta)) fun q => .next ((q.2.setNZ (q.1 + delta)).advance m.length)

/-- `$06`: ASL Zero Page (rules R102, R56). -/
def execAslZp (zp : Byte) (s : State) : Out State := shiftPlace asl (.memory (.zeroPage zp)) s
/-- `$0A`: ASL Accumulator (rules R102, R54). -/
def execAslAcc (s : State) : Out State := shiftPlace asl .accumulator s
/-- `$0E`: ASL Absolute (rules R102, R59). -/
def execAslAbs (addr : Addr) (s : State) : Out State := shiftPlace asl (.memory (.absolute addr)) s
/-- `$16`: ASL Zero Page,X (rules R102, R57). -/
def execAslZpX (zp : Byte) (s : State) : Out State := shiftPlace asl (.memory (.zeroPageX zp)) s
/-- `$1E`: ASL Absolute,X (rules R102, R60). -/
def execAslAbsX (addr : Addr) (s : State) : Out State := shiftPlace asl (.memory (.absoluteX addr)) s

/-- `$46`: LSR Zero Page (rules R145, R56). -/
def execLsrZp (zp : Byte) (s : State) : Out State := shiftPlace lsr (.memory (.zeroPage zp)) s
/-- `$4A`: LSR Accumulator (rules R145, R54). -/
def execLsrAcc (s : State) : Out State := shiftPlace lsr .accumulator s
/-- `$4E`: LSR Absolute (rules R145, R59). -/
def execLsrAbs (addr : Addr) (s : State) : Out State := shiftPlace lsr (.memory (.absolute addr)) s
/-- `$56`: LSR Zero Page,X (rules R145, R57). -/
def execLsrZpX (zp : Byte) (s : State) : Out State := shiftPlace lsr (.memory (.zeroPageX zp)) s
/-- `$5E`: LSR Absolute,X (rules R145, R60). -/
def execLsrAbsX (addr : Addr) (s : State) : Out State := shiftPlace lsr (.memory (.absoluteX addr)) s

/-- `$26`: ROL Zero Page (rules R166, R56). -/
def execRolZp (zp : Byte) (s : State) : Out State := shiftPlace rol (.memory (.zeroPage zp)) s
/-- `$2A`: ROL Accumulator (rules R166, R54). -/
def execRolAcc (s : State) : Out State := shiftPlace rol .accumulator s
/-- `$2E`: ROL Absolute (rules R166, R59). -/
def execRolAbs (addr : Addr) (s : State) : Out State := shiftPlace rol (.memory (.absolute addr)) s
/-- `$36`: ROL Zero Page,X (rules R166, R57). -/
def execRolZpX (zp : Byte) (s : State) : Out State := shiftPlace rol (.memory (.zeroPageX zp)) s
/-- `$3E`: ROL Absolute,X (rules R166, R60). -/
def execRolAbsX (addr : Addr) (s : State) : Out State := shiftPlace rol (.memory (.absoluteX addr)) s

/-- `$66`: ROR Zero Page (rules R167, R56). -/
def execRorZp (zp : Byte) (s : State) : Out State := shiftPlace ror (.memory (.zeroPage zp)) s
/-- `$6A`: ROR Accumulator (rules R167, R54). -/
def execRorAcc (s : State) : Out State := shiftPlace ror .accumulator s
/-- `$6E`: ROR Absolute (rules R167, R59). -/
def execRorAbs (addr : Addr) (s : State) : Out State := shiftPlace ror (.memory (.absolute addr)) s
/-- `$76`: ROR Zero Page,X (rules R167, R57). -/
def execRorZpX (zp : Byte) (s : State) : Out State := shiftPlace ror (.memory (.zeroPageX zp)) s
/-- `$7E`: ROR Absolute,X (rules R167, R60). -/
def execRorAbsX (addr : Addr) (s : State) : Out State := shiftPlace ror (.memory (.absoluteX addr)) s

/-- `$E6`: INC Zero Page (rules R128, R56). -/
def execIncZp (zp : Byte) (s : State) : Out State := addToMemory 1 (.zeroPage zp) s
/-- `$EE`: INC Absolute (rules R128, R59). -/
def execIncAbs (addr : Addr) (s : State) : Out State := addToMemory 1 (.absolute addr) s
/-- `$F6`: INC Zero Page,X (rules R128, R57). -/
def execIncZpX (zp : Byte) (s : State) : Out State := addToMemory 1 (.zeroPageX zp) s
/-- `$FE`: INC Absolute,X (rules R128, R60). -/
def execIncAbsX (addr : Addr) (s : State) : Out State := addToMemory 1 (.absoluteX addr) s

/-- `$C6`: DEC Zero Page (rules R125, R56). -/
def execDecZp (zp : Byte) (s : State) : Out State := addToMemory (-1) (.zeroPage zp) s
/-- `$CE`: DEC Absolute (rules R125, R59). -/
def execDecAbs (addr : Addr) (s : State) : Out State := addToMemory (-1) (.absolute addr) s
/-- `$D6`: DEC Zero Page,X (rules R125, R57). -/
def execDecZpX (zp : Byte) (s : State) : Out State := addToMemory (-1) (.zeroPageX zp) s
/-- `$DE`: DEC Absolute,X (rules R125, R60). -/
def execDecAbsX (addr : Addr) (s : State) : Out State := addToMemory (-1) (.absoluteX addr) s

end Sys2Proof.Machine
end

