-- ==== Sys2Proof/Machine/Stack.lean ====
section
/-!
DEFINITION. The stack instructions PHA, PLA, PHP, PLP (rules R171 to R174).
-/

namespace Sys2Proof.Machine

/-- `$48`: PHA (rule R171). -/
def execPha (s : State) : Out State := andThen (s.push s.a) fun t => .next (t.advance 1)
/-- `$08`: PHP (rule R173). -/
def execPhp (s : State) : Out State := andThen (s.push (pByte true s)) fun t => .next (t.advance 1)
/-- `$68`: PLA (rule R172). -/
def execPla (s : State) : Out State := andThen s.pull fun q => .next (((q.2.setA q.1).setNZ q.1).advance 1)
/-- `$28`: PLP (rule R174). -/
def execPlp (s : State) : Out State := andThen s.pull fun q => .next ((q.2.setP q.1).advance 1)

end Sys2Proof.Machine
end

