-- ==== Sys2Proof/Machine/Unstable.lean ====
section
/-!
DEFINITION. The semi-stable "Unstable High Byte" opcodes SHA, SHX, SHY, LAS, TAS under their two warnings (rules R220 to R226).
-/

namespace Sys2Proof.Machine

/-- Warning 1 (rule R220): the location of the operand, refused when a page is crossed. DESIGN CHOICE (log entry 34): where rule
R45 refuses too, because the un-carried cell is a device with read side effects, `State.locate` has given that refusal first. -/
def locateInPage (m : MemMode) (s : State) : Out (Located × State) :=
  andThen (s.locate m) fun l => if l.1.crossed then .refused .unstablePageCross else .next l

/-- The byte Warning 2 lets a store write (rule R221): `v & H1` with `H1 = (hi(ea) + 1) mod 256`, or a draw between it and `v`
unless RDY is known never to be low. -/
def unstableByte (v : Byte) (ea : Addr) (s : State) : Byte × State :=
  if s.params.rdyNeverLow then (v &&& (hi ea + 1), s) else s.draw (v &&& (hi ea + 1)) v

/-- The common shape of SHA, SHX and SHY (rules R222 to R224) for the register term `v`. -/
def unstableStore (v : Byte) (m : MemMode) (s : State) : Out State :=
  andThen (locateInPage m s) fun l =>
  let q := unstableByte v l.1.ea l.2
  andThen (q.2.write l.1.ea q.1) fun t => .next (t.advance m.length)

/-- TAS (rule R226): S takes `A & X`, and the store writes the new S under Warning 2. -/
def tas (m : MemMode) (s : State) : Out State :=
  andThen (locateInPage m s) fun l =>
  let v := s.a &&& s.x
  let q := unstableByte v l.1.ea (l.2.setSp v)
  andThen (q.2.write l.1.ea q.1) fun t => .next (t.advance m.length)

/-- LAS (rule R225): A, X and S take the memory byte ANDed with S. -/
def las (m : MemMode) (s : State) : Out State :=
  andThen (locateInPage m s) fun l =>
  andThen (l.2.read l.1.ea) fun b =>
  let r := b.1 &&& s.sp
  .next (((((b.2.setA r).setX r).setSp r).setNZ r).advance m.length)

/-- `$93`: SHA Indirect,Y (rules R222, R64). -/
def execShaIndY (zp : Byte) (s : State) : Out State := unstableStore (s.a &&& s.x) (.indirectY zp) s
/-- `$9F`: SHA Absolute,Y (rules R222, R61). -/
def execShaAbsY (addr : Addr) (s : State) : Out State := unstableStore (s.a &&& s.x) (.absoluteY addr) s

/-- `$9E`: SHX Absolute,Y (rules R223, R61). -/
def execShx (addr : Addr) (s : State) : Out State := unstableStore s.x (.absoluteY addr) s

/-- `$9C`: SHY Absolute,X (rules R224, R60). -/
def execShy (addr : Addr) (s : State) : Out State := unstableStore s.y (.absoluteX addr) s

/-- `$BB`: LAS Absolute,Y (rules R225, R61). -/
def execLas (addr : Addr) (s : State) : Out State := las (.absoluteY addr) s

/-- `$9B`: TAS Absolute,Y (rules R226, R61). -/
def execTas (addr : Addr) (s : State) : Out State := tas (.absoluteY addr) s

end Sys2Proof.Machine
end

