-- ==== Sys2Proof/Machine/Dispatch.lean ====
section
/-!
DEFINITION. What each instruction does: one arm for each constructor of `Instr`, each one call of that instruction's meaning.
-/

namespace Sys2Proof.Machine

def exec (i : Instr) (s : State) : Host.Outcome State Fault Refusal :=
  match i with
  | .oraIndX zp => Sys2Proof.Machine.execOraIndX zp s
  | .sloIndX zp => Sys2Proof.Machine.execSloIndX zp s
  | .nop04 zp => Sys2Proof.Machine.execNop04 zp s
  | .oraZp zp => Sys2Proof.Machine.execOraZp zp s
  | .aslZp zp => Sys2Proof.Machine.execAslZp zp s
  | .sloZp zp => Sys2Proof.Machine.execSloZp zp s
  | .oraImm imm => Sys2Proof.Machine.execOraImm imm s
  | .anc0B imm => Sys2Proof.Machine.execAnc0B imm s
  | .nop0C addr => Sys2Proof.Machine.execNop0C addr s
  | .oraAbs addr => Sys2Proof.Machine.execOraAbs addr s
  | .aslAbs addr => Sys2Proof.Machine.execAslAbs addr s
  | .sloAbs addr => Sys2Proof.Machine.execSloAbs addr s
  | .bpl offset => Sys2Proof.Machine.execBpl offset s
  | .oraIndY zp => Sys2Proof.Machine.execOraIndY zp s
  | .sloIndY zp => Sys2Proof.Machine.execSloIndY zp s
  | .nop14 zp => Sys2Proof.Machine.execNop14 zp s
  | .oraZpX zp => Sys2Proof.Machine.execOraZpX zp s
  | .aslZpX zp => Sys2Proof.Machine.execAslZpX zp s
  | .sloZpX zp => Sys2Proof.Machine.execSloZpX zp s
  | .oraAbsY addr => Sys2Proof.Machine.execOraAbsY addr s
  | .sloAbsY addr => Sys2Proof.Machine.execSloAbsY addr s
  | .nop1C addr => Sys2Proof.Machine.execNop1C addr s
  | .oraAbsX addr => Sys2Proof.Machine.execOraAbsX addr s
  | .aslAbsX addr => Sys2Proof.Machine.execAslAbsX addr s
  | .sloAbsX addr => Sys2Proof.Machine.execSloAbsX addr s
  | .jsr addr => Sys2Proof.Machine.execJsr addr s
  | .andIndX zp => Sys2Proof.Machine.execAndIndX zp s
  | .rlaIndX zp => Sys2Proof.Machine.execRlaIndX zp s
  | .bitZp zp => Sys2Proof.Machine.execBitZp zp s
  | .andZp zp => Sys2Proof.Machine.execAndZp zp s
  | .rolZp zp => Sys2Proof.Machine.execRolZp zp s
  | .rlaZp zp => Sys2Proof.Machine.execRlaZp zp s
  | .andImm imm => Sys2Proof.Machine.execAndImm imm s
  | .anc2B imm => Sys2Proof.Machine.execAnc2B imm s
  | .bitAbs addr => Sys2Proof.Machine.execBitAbs addr s
  | .andAbs addr => Sys2Proof.Machine.execAndAbs addr s
  | .rolAbs addr => Sys2Proof.Machine.execRolAbs addr s
  | .rlaAbs addr => Sys2Proof.Machine.execRlaAbs addr s
  | .bmi offset => Sys2Proof.Machine.execBmi offset s
  | .andIndY zp => Sys2Proof.Machine.execAndIndY zp s
  | .rlaIndY zp => Sys2Proof.Machine.execRlaIndY zp s
  | .nop34 zp => Sys2Proof.Machine.execNop34 zp s
  | .andZpX zp => Sys2Proof.Machine.execAndZpX zp s
  | .rolZpX zp => Sys2Proof.Machine.execRolZpX zp s
  | .rlaZpX zp => Sys2Proof.Machine.execRlaZpX zp s
  | .andAbsY addr => Sys2Proof.Machine.execAndAbsY addr s
  | .rlaAbsY addr => Sys2Proof.Machine.execRlaAbsY addr s
  | .nop3C addr => Sys2Proof.Machine.execNop3C addr s
  | .andAbsX addr => Sys2Proof.Machine.execAndAbsX addr s
  | .rolAbsX addr => Sys2Proof.Machine.execRolAbsX addr s
  | .rlaAbsX addr => Sys2Proof.Machine.execRlaAbsX addr s
  | .eorIndX zp => Sys2Proof.Machine.execEorIndX zp s
  | .sreIndX zp => Sys2Proof.Machine.execSreIndX zp s
  | .nop44 zp => Sys2Proof.Machine.execNop44 zp s
  | .eorZp zp => Sys2Proof.Machine.execEorZp zp s
  | .lsrZp zp => Sys2Proof.Machine.execLsrZp zp s
  | .sreZp zp => Sys2Proof.Machine.execSreZp zp s
  | .eorImm imm => Sys2Proof.Machine.execEorImm imm s
  | .alr imm => Sys2Proof.Machine.execAlr imm s
  | .jmpAbs addr => Sys2Proof.Machine.execJmpAbs addr s
  | .eorAbs addr => Sys2Proof.Machine.execEorAbs addr s
  | .lsrAbs addr => Sys2Proof.Machine.execLsrAbs addr s
  | .sreAbs addr => Sys2Proof.Machine.execSreAbs addr s
  | .bvc offset => Sys2Proof.Machine.execBvc offset s
  | .eorIndY zp => Sys2Proof.Machine.execEorIndY zp s
  | .sreIndY zp => Sys2Proof.Machine.execSreIndY zp s
  | .nop54 zp => Sys2Proof.Machine.execNop54 zp s
  | .eorZpX zp => Sys2Proof.Machine.execEorZpX zp s
  | .lsrZpX zp => Sys2Proof.Machine.execLsrZpX zp s
  | .sreZpX zp => Sys2Proof.Machine.execSreZpX zp s
  | .eorAbsY addr => Sys2Proof.Machine.execEorAbsY addr s
  | .sreAbsY addr => Sys2Proof.Machine.execSreAbsY addr s
  | .nop5C addr => Sys2Proof.Machine.execNop5C addr s
  | .eorAbsX addr => Sys2Proof.Machine.execEorAbsX addr s
  | .lsrAbsX addr => Sys2Proof.Machine.execLsrAbsX addr s
  | .sreAbsX addr => Sys2Proof.Machine.execSreAbsX addr s
  | .adcIndX zp => Sys2Proof.Machine.execAdcIndX zp s
  | .rraIndX zp => Sys2Proof.Machine.execRraIndX zp s
  | .nop64 zp => Sys2Proof.Machine.execNop64 zp s
  | .adcZp zp => Sys2Proof.Machine.execAdcZp zp s
  | .rorZp zp => Sys2Proof.Machine.execRorZp zp s
  | .rraZp zp => Sys2Proof.Machine.execRraZp zp s
  | .adcImm imm => Sys2Proof.Machine.execAdcImm imm s
  | .arr imm => Sys2Proof.Machine.execArr imm s
  | .jmpInd addr => Sys2Proof.Machine.execJmpInd addr s
  | .adcAbs addr => Sys2Proof.Machine.execAdcAbs addr s
  | .rorAbs addr => Sys2Proof.Machine.execRorAbs addr s
  | .rraAbs addr => Sys2Proof.Machine.execRraAbs addr s
  | .bvs offset => Sys2Proof.Machine.execBvs offset s
  | .adcIndY zp => Sys2Proof.Machine.execAdcIndY zp s
  | .rraIndY zp => Sys2Proof.Machine.execRraIndY zp s
  | .nop74 zp => Sys2Proof.Machine.execNop74 zp s
  | .adcZpX zp => Sys2Proof.Machine.execAdcZpX zp s
  | .rorZpX zp => Sys2Proof.Machine.execRorZpX zp s
  | .rraZpX zp => Sys2Proof.Machine.execRraZpX zp s
  | .adcAbsY addr => Sys2Proof.Machine.execAdcAbsY addr s
  | .rraAbsY addr => Sys2Proof.Machine.execRraAbsY addr s
  | .nop7C addr => Sys2Proof.Machine.execNop7C addr s
  | .adcAbsX addr => Sys2Proof.Machine.execAdcAbsX addr s
  | .rorAbsX addr => Sys2Proof.Machine.execRorAbsX addr s
  | .rraAbsX addr => Sys2Proof.Machine.execRraAbsX addr s
  | .nop80 imm => Sys2Proof.Machine.execNop80 imm s
  | .staIndX zp => Sys2Proof.Machine.execStaIndX zp s
  | .nop82 imm => Sys2Proof.Machine.execNop82 imm s
  | .saxIndX zp => Sys2Proof.Machine.execSaxIndX zp s
  | .styZp zp => Sys2Proof.Machine.execStyZp zp s
  | .staZp zp => Sys2Proof.Machine.execStaZp zp s
  | .stxZp zp => Sys2Proof.Machine.execStxZp zp s
  | .saxZp zp => Sys2Proof.Machine.execSaxZp zp s
  | .nop89 imm => Sys2Proof.Machine.execNop89 imm s
  | .styAbs addr => Sys2Proof.Machine.execStyAbs addr s
  | .staAbs addr => Sys2Proof.Machine.execStaAbs addr s
  | .stxAbs addr => Sys2Proof.Machine.execStxAbs addr s
  | .saxAbs addr => Sys2Proof.Machine.execSaxAbs addr s
  | .bcc offset => Sys2Proof.Machine.execBcc offset s
  | .staIndY zp => Sys2Proof.Machine.execStaIndY zp s
  | .shaIndY zp => Sys2Proof.Machine.execShaIndY zp s
  | .styZpX zp => Sys2Proof.Machine.execStyZpX zp s
  | .staZpX zp => Sys2Proof.Machine.execStaZpX zp s
  | .stxZpY zp => Sys2Proof.Machine.execStxZpY zp s
  | .saxZpY zp => Sys2Proof.Machine.execSaxZpY zp s
  | .staAbsY addr => Sys2Proof.Machine.execStaAbsY addr s
  | .tas addr => Sys2Proof.Machine.execTas addr s
  | .shy addr => Sys2Proof.Machine.execShy addr s
  | .staAbsX addr => Sys2Proof.Machine.execStaAbsX addr s
  | .shx addr => Sys2Proof.Machine.execShx addr s
  | .shaAbsY addr => Sys2Proof.Machine.execShaAbsY addr s
  | .ldyImm imm => Sys2Proof.Machine.execLdyImm imm s
  | .ldaIndX zp => Sys2Proof.Machine.execLdaIndX zp s
  | .ldxImm imm => Sys2Proof.Machine.execLdxImm imm s
  | .laxIndX zp => Sys2Proof.Machine.execLaxIndX zp s
  | .ldyZp zp => Sys2Proof.Machine.execLdyZp zp s
  | .ldaZp zp => Sys2Proof.Machine.execLdaZp zp s
  | .ldxZp zp => Sys2Proof.Machine.execLdxZp zp s
  | .laxZp zp => Sys2Proof.Machine.execLaxZp zp s
  | .ldaImm imm => Sys2Proof.Machine.execLdaImm imm s
  | .ldyAbs addr => Sys2Proof.Machine.execLdyAbs addr s
  | .ldaAbs addr => Sys2Proof.Machine.execLdaAbs addr s
  | .ldxAbs addr => Sys2Proof.Machine.execLdxAbs addr s
  | .laxAbs addr => Sys2Proof.Machine.execLaxAbs addr s
  | .bcs offset => Sys2Proof.Machine.execBcs offset s
  | .ldaIndY zp => Sys2Proof.Machine.execLdaIndY zp s
  | .laxIndY zp => Sys2Proof.Machine.execLaxIndY zp s
  | .ldyZpX zp => Sys2Proof.Machine.execLdyZpX zp s
  | .ldaZpX zp => Sys2Proof.Machine.execLdaZpX zp s
  | .ldxZpY zp => Sys2Proof.Machine.execLdxZpY zp s
  | .laxZpY zp => Sys2Proof.Machine.execLaxZpY zp s
  | .ldaAbsY addr => Sys2Proof.Machine.execLdaAbsY addr s
  | .las addr => Sys2Proof.Machine.execLas addr s
  | .ldyAbsX addr => Sys2Proof.Machine.execLdyAbsX addr s
  | .ldaAbsX addr => Sys2Proof.Machine.execLdaAbsX addr s
  | .ldxAbsY addr => Sys2Proof.Machine.execLdxAbsY addr s
  | .laxAbsY addr => Sys2Proof.Machine.execLaxAbsY addr s
  | .cpyImm imm => Sys2Proof.Machine.execCpyImm imm s
  | .cmpIndX zp => Sys2Proof.Machine.execCmpIndX zp s
  | .nopC2 imm => Sys2Proof.Machine.execNopC2 imm s
  | .dcpIndX zp => Sys2Proof.Machine.execDcpIndX zp s
  | .cpyZp zp => Sys2Proof.Machine.execCpyZp zp s
  | .cmpZp zp => Sys2Proof.Machine.execCmpZp zp s
  | .decZp zp => Sys2Proof.Machine.execDecZp zp s
  | .dcpZp zp => Sys2Proof.Machine.execDcpZp zp s
  | .cmpImm imm => Sys2Proof.Machine.execCmpImm imm s
  | .sbx imm => Sys2Proof.Machine.execSbx imm s
  | .cpyAbs addr => Sys2Proof.Machine.execCpyAbs addr s
  | .cmpAbs addr => Sys2Proof.Machine.execCmpAbs addr s
  | .decAbs addr => Sys2Proof.Machine.execDecAbs addr s
  | .dcpAbs addr => Sys2Proof.Machine.execDcpAbs addr s
  | .bne offset => Sys2Proof.Machine.execBne offset s
  | .cmpIndY zp => Sys2Proof.Machine.execCmpIndY zp s
  | .dcpIndY zp => Sys2Proof.Machine.execDcpIndY zp s
  | .nopD4 zp => Sys2Proof.Machine.execNopD4 zp s
  | .cmpZpX zp => Sys2Proof.Machine.execCmpZpX zp s
  | .decZpX zp => Sys2Proof.Machine.execDecZpX zp s
  | .dcpZpX zp => Sys2Proof.Machine.execDcpZpX zp s
  | .cmpAbsY addr => Sys2Proof.Machine.execCmpAbsY addr s
  | .dcpAbsY addr => Sys2Proof.Machine.execDcpAbsY addr s
  | .nopDC addr => Sys2Proof.Machine.execNopDC addr s
  | .cmpAbsX addr => Sys2Proof.Machine.execCmpAbsX addr s
  | .decAbsX addr => Sys2Proof.Machine.execDecAbsX addr s
  | .dcpAbsX addr => Sys2Proof.Machine.execDcpAbsX addr s
  | .cpxImm imm => Sys2Proof.Machine.execCpxImm imm s
  | .sbcIndX zp => Sys2Proof.Machine.execSbcIndX zp s
  | .nopE2 imm => Sys2Proof.Machine.execNopE2 imm s
  | .iscIndX zp => Sys2Proof.Machine.execIscIndX zp s
  | .cpxZp zp => Sys2Proof.Machine.execCpxZp zp s
  | .sbcZp zp => Sys2Proof.Machine.execSbcZp zp s
  | .incZp zp => Sys2Proof.Machine.execIncZp zp s
  | .iscZp zp => Sys2Proof.Machine.execIscZp zp s
  | .sbcImm imm => Sys2Proof.Machine.execSbcImm imm s
  | .sbcEB imm => Sys2Proof.Machine.execSbcEB imm s
  | .cpxAbs addr => Sys2Proof.Machine.execCpxAbs addr s
  | .sbcAbs addr => Sys2Proof.Machine.execSbcAbs addr s
  | .incAbs addr => Sys2Proof.Machine.execIncAbs addr s
  | .iscAbs addr => Sys2Proof.Machine.execIscAbs addr s
  | .beq offset => Sys2Proof.Machine.execBeq offset s
  | .sbcIndY zp => Sys2Proof.Machine.execSbcIndY zp s
  | .iscIndY zp => Sys2Proof.Machine.execIscIndY zp s
  | .nopF4 zp => Sys2Proof.Machine.execNopF4 zp s
  | .sbcZpX zp => Sys2Proof.Machine.execSbcZpX zp s
  | .incZpX zp => Sys2Proof.Machine.execIncZpX zp s
  | .iscZpX zp => Sys2Proof.Machine.execIscZpX zp s
  | .sbcAbsY addr => Sys2Proof.Machine.execSbcAbsY addr s
  | .iscAbsY addr => Sys2Proof.Machine.execIscAbsY addr s
  | .nopFC addr => Sys2Proof.Machine.execNopFC addr s
  | .sbcAbsX addr => Sys2Proof.Machine.execSbcAbsX addr s
  | .incAbsX addr => Sys2Proof.Machine.execIncAbsX addr s
  | .iscAbsX addr => Sys2Proof.Machine.execIscAbsX addr s
  | .brk => Sys2Proof.Machine.execBrk s
  | .jam02 => Sys2Proof.Machine.execJam02 s
  | .php => Sys2Proof.Machine.execPhp s
  | .aslAcc => Sys2Proof.Machine.execAslAcc s
  | .jam12 => Sys2Proof.Machine.execJam12 s
  | .clc => Sys2Proof.Machine.execClc s
  | .nop1A => Sys2Proof.Machine.execNop1A s
  | .jam22 => Sys2Proof.Machine.execJam22 s
  | .plp => Sys2Proof.Machine.execPlp s
  | .rolAcc => Sys2Proof.Machine.execRolAcc s
  | .jam32 => Sys2Proof.Machine.execJam32 s
  | .sec => Sys2Proof.Machine.execSec s
  | .nop3A => Sys2Proof.Machine.execNop3A s
  | .rti => Sys2Proof.Machine.execRti s
  | .jam42 => Sys2Proof.Machine.execJam42 s
  | .pha => Sys2Proof.Machine.execPha s
  | .lsrAcc => Sys2Proof.Machine.execLsrAcc s
  | .jam52 => Sys2Proof.Machine.execJam52 s
  | .cli => Sys2Proof.Machine.execCli s
  | .nop5A => Sys2Proof.Machine.execNop5A s
  | .rts => Sys2Proof.Machine.execRts s
  | .jam62 => Sys2Proof.Machine.execJam62 s
  | .pla => Sys2Proof.Machine.execPla s
  | .rorAcc => Sys2Proof.Machine.execRorAcc s
  | .jam72 => Sys2Proof.Machine.execJam72 s
  | .sei => Sys2Proof.Machine.execSei s
  | .nop7A => Sys2Proof.Machine.execNop7A s
  | .dey => Sys2Proof.Machine.execDey s
  | .txa => Sys2Proof.Machine.execTxa s
  | .ane => Sys2Proof.Machine.execAne s
  | .jam92 => Sys2Proof.Machine.execJam92 s
  | .tya => Sys2Proof.Machine.execTya s
  | .txs => Sys2Proof.Machine.execTxs s
  | .tay => Sys2Proof.Machine.execTay s
  | .tax => Sys2Proof.Machine.execTax s
  | .laxAB => Sys2Proof.Machine.execLaxAB s
  | .jamB2 => Sys2Proof.Machine.execJamB2 s
  | .clv => Sys2Proof.Machine.execClv s
  | .tsx => Sys2Proof.Machine.execTsx s
  | .iny => Sys2Proof.Machine.execIny s
  | .dex => Sys2Proof.Machine.execDex s
  | .jamD2 => Sys2Proof.Machine.execJamD2 s
  | .cld => Sys2Proof.Machine.execCld s
  | .nopDA => Sys2Proof.Machine.execNopDA s
  | .inx => Sys2Proof.Machine.execInx s
  | .nop => Sys2Proof.Machine.execNop s
  | .jamF2 => Sys2Proof.Machine.execJamF2 s
  | .sed => Sys2Proof.Machine.execSed s
  | .nopFA => Sys2Proof.Machine.execNopFA s

end Sys2Proof.Machine
end

