-- ==== Sys2Proof/WellFormed.lean ====
section
/-!
DEFINITION. Well-formedness: which operation may stand with which operand (the Mode columns of files 40 to 45, G15 for the
matrix-only opcodes), and which lines a memory map may hold. Every term of `Instr` is well formed (its constructors hold
whole operand bytes, rule R50, and one row each); the checks bite on `Form` and on `Region`.
-/

namespace Sys2Proof

/-- The modes an operation has rows for. -/
def Operation.modes : Operation → List Mode
  | .brk => [.implied]
  | .ora => [.immediate, .zeroPage, .zeroPageX, .absolute, .absoluteX, .absoluteY, .indirectX, .indirectY]
  | .jam => [.implied]
  | .slo => [.zeroPage, .zeroPageX, .absolute, .absoluteX, .absoluteY, .indirectX, .indirectY]
  | .illegalNop => [.implied, .immediate, .zeroPage, .zeroPageX, .absolute, .absoluteX]
  | .asl => [.accumulator, .zeroPage, .zeroPageX, .absolute, .absoluteX]
  | .php => [.implied]
  | .anc => [.immediate]
  | .bpl => [.relative]
  | .clc => [.implied]
  | .jsr => [.absolute]
  | .and => [.immediate, .zeroPage, .zeroPageX, .absolute, .absoluteX, .absoluteY, .indirectX, .indirectY]
  | .rla => [.zeroPage, .zeroPageX, .absolute, .absoluteX, .absoluteY, .indirectX, .indirectY]
  | .bit => [.zeroPage, .absolute]
  | .rol => [.accumulator, .zeroPage, .zeroPageX, .absolute, .absoluteX]
  | .plp => [.implied]
  | .bmi => [.relative]
  | .sec => [.implied]
  | .rti => [.implied]
  | .eor => [.immediate, .zeroPage, .zeroPageX, .absolute, .absoluteX, .absoluteY, .indirectX, .indirectY]
  | .sre => [.zeroPage, .zeroPageX, .absolute, .absoluteX, .absoluteY, .indirectX, .indirectY]
  | .lsr => [.accumulator, .zeroPage, .zeroPageX, .absolute, .absoluteX]
  | .pha => [.implied]
  | .alr => [.immediate]
  | .jmp => [.absolute, .indirect]
  | .bvc => [.relative]
  | .cli => [.implied]
  | .rts => [.implied]
  | .adc => [.immediate, .zeroPage, .zeroPageX, .absolute, .absoluteX, .absoluteY, .indirectX, .indirectY]
  | .rra => [.zeroPage, .zeroPageX, .absolute, .absoluteX, .absoluteY, .indirectX, .indirectY]
  | .ror => [.accumulator, .zeroPage, .zeroPageX, .absolute, .absoluteX]
  | .pla => [.implied]
  | .arr => [.immediate]
  | .bvs => [.relative]
  | .sei => [.implied]
  | .sta => [.zeroPage, .zeroPageX, .absolute, .absoluteX, .absoluteY, .indirectX, .indirectY]
  | .sax => [.zeroPage, .zeroPageY, .absolute, .indirectX]
  | .sty => [.zeroPage, .zeroPageX, .absolute]
  | .stx => [.zeroPage, .zeroPageY, .absolute]
  | .dey => [.implied]
  | .txa => [.implied]
  | .ane => [.implied]
  | .bcc => [.relative]
  | .sha => [.absoluteY, .indirectY]
  | .tya => [.implied]
  | .txs => [.implied]
  | .tas => [.absoluteY]
  | .shy => [.absoluteX]
  | .shx => [.absoluteY]
  | .ldy => [.immediate, .zeroPage, .zeroPageX, .absolute, .absoluteX]
  | .lda => [.immediate, .zeroPage, .zeroPageX, .absolute, .absoluteX, .absoluteY, .indirectX, .indirectY]
  | .ldx => [.immediate, .zeroPage, .zeroPageY, .absolute, .absoluteY]
  | .lax => [.zeroPage, .zeroPageY, .absolute, .absoluteY, .indirectX, .indirectY]
  | .tay => [.implied]
  | .tax => [.implied]
  | .laxAB => [.implied]
  | .bcs => [.relative]
  | .clv => [.implied]
  | .tsx => [.implied]
  | .las => [.absoluteY]
  | .cpy => [.immediate, .zeroPage, .absolute]
  | .cmp => [.immediate, .zeroPage, .zeroPageX, .absolute, .absoluteX, .absoluteY, .indirectX, .indirectY]
  | .dcp => [.zeroPage, .zeroPageX, .absolute, .absoluteX, .absoluteY, .indirectX, .indirectY]
  | .dec => [.zeroPage, .zeroPageX, .absolute, .absoluteX]
  | .iny => [.implied]
  | .dex => [.implied]
  | .sbx => [.immediate]
  | .bne => [.relative]
  | .cld => [.implied]
  | .cpx => [.immediate, .zeroPage, .absolute]
  | .sbc => [.immediate, .zeroPage, .zeroPageX, .absolute, .absoluteX, .absoluteY, .indirectX, .indirectY]
  | .isc => [.zeroPage, .zeroPageX, .absolute, .absoluteX, .absoluteY, .indirectX, .indirectY]
  | .inc => [.zeroPage, .zeroPageX, .absolute, .absoluteX]
  | .inx => [.implied]
  | .nop => [.implied]
  | .sbcEB => [.immediate]
  | .beq => [.relative]
  | .sed => [.implied]

/-- The use an operation makes of its operand; the illegal NOPs come with and without an operand. -/
def Operation.accesses : Operation → List Access
  | .brk => [.none]
  | .ora => [.read]
  | .jam => [.none]
  | .slo => [.modify]
  | .illegalNop => [.none, .read]
  | .asl => [.modify]
  | .php => [.none]
  | .anc => [.read]
  | .bpl => [.branch]
  | .clc => [.none]
  | .jsr => [.target]
  | .and => [.read]
  | .rla => [.modify]
  | .bit => [.read]
  | .rol => [.modify]
  | .plp => [.none]
  | .bmi => [.branch]
  | .sec => [.none]
  | .rti => [.none]
  | .eor => [.read]
  | .sre => [.modify]
  | .lsr => [.modify]
  | .pha => [.none]
  | .alr => [.read]
  | .jmp => [.target]
  | .bvc => [.branch]
  | .cli => [.none]
  | .rts => [.none]
  | .adc => [.read]
  | .rra => [.modify]
  | .ror => [.modify]
  | .pla => [.none]
  | .arr => [.read]
  | .bvs => [.branch]
  | .sei => [.none]
  | .sta => [.write]
  | .sax => [.write]
  | .sty => [.write]
  | .stx => [.write]
  | .dey => [.none]
  | .txa => [.none]
  | .ane => [.none]
  | .bcc => [.branch]
  | .sha => [.write]
  | .tya => [.none]
  | .txs => [.none]
  | .tas => [.write]
  | .shy => [.write]
  | .shx => [.write]
  | .ldy => [.read]
  | .lda => [.read]
  | .ldx => [.read]
  | .lax => [.read]
  | .tay => [.none]
  | .tax => [.none]
  | .laxAB => [.none]
  | .bcs => [.branch]
  | .clv => [.none]
  | .tsx => [.none]
  | .las => [.read]
  | .cpy => [.read]
  | .cmp => [.read]
  | .dcp => [.modify]
  | .dec => [.modify]
  | .iny => [.none]
  | .dex => [.none]
  | .sbx => [.read]
  | .bne => [.branch]
  | .cld => [.none]
  | .cpx => [.read]
  | .sbc => [.read]
  | .isc => [.modify]
  | .inc => [.modify]
  | .inx => [.none]
  | .nop => [.none]
  | .sbcEB => [.read]
  | .beq => [.branch]
  | .sed => [.none]

/-- The mode is one the spec's table of the operation lists. -/
def Form.hasMode (f : Form) : Bool := f.operation.modes.contains f.operand.mode

/-- The operand is used as the operation uses its operand. -/
def Form.hasAccess (f : Form) : Bool := f.operation.accesses.contains f.operand.access

/-- A form is well formed when the spec has a row for it. -/
def Form.wellFormed (f : Form) : Bool := f.hasMode && f.hasAccess

/-- An instruction is well formed when its form is. -/
def Instr.wellFormed (i : Instr) : Bool := i.form.wellFormed

/-- A line of a memory map is not empty and lies inside the 65536 cells of rule R30. -/
def Region.wellFormed (r : Region) : Bool := decide (0 < r.size) && decide (r.base + r.size ≤ 65536)

/-- Two lines of a memory map give no address two kinds (rule R46: `MemMap` is a function). -/
def Region.disjoint (r q : Region) : Bool := decide (r.base + r.size ≤ q.base) || decide (q.base + q.size ≤ r.base)

/-- A memory map is well formed when its lines are, and no two of them overlap. -/
def memMapWellFormed : List Region → Bool
  | [] => true
  | r :: rest => r.wellFormed && rest.all r.disjoint && memMapWellFormed rest

end Sys2Proof
end

