-- ==== Sys2Proof/Decode.lean ====
section
/-!
DEFINITION. The decoder (rules R31, R32, R50 to R52, R66, R68), total on any bytes, and after it the encoder, written from the
HEX columns of the detail rows. Every one of the 256 opcode bytes decodes to an instruction (rule R52); what can go wrong is
that operand bytes are missing.
-/

namespace Sys2Proof

open Sys2Proof.Machine (word hi lo)

/-- Row `0-` of the matrix of rule R66: the instruction of the opcode byte `$00 + lo` with the operand bytes `b1`, `b2`. -/
def matrix0 (low : Nat) (b1 b2 : Byte) : Instr :=
  match low with
  | 0 => .brk
  | 1 => .oraIndX b1
  | 2 => .jam02
  | 3 => .sloIndX b1
  | 4 => .nop04 b1
  | 5 => .oraZp b1
  | 6 => .aslZp b1
  | 7 => .sloZp b1
  | 8 => .php
  | 9 => .oraImm b1
  | 10 => .aslAcc
  | 11 => .anc0B b1
  | 12 => .nop0C (word b2 b1)
  | 13 => .oraAbs (word b2 b1)
  | 14 => .aslAbs (word b2 b1)
  | _ => .sloAbs (word b2 b1)

/-- Row `1-` of the matrix of rule R66: the instruction of the opcode byte `$10 + lo` with the operand bytes `b1`, `b2`. -/
def matrix1 (low : Nat) (b1 b2 : Byte) : Instr :=
  match low with
  | 0 => .bpl b1
  | 1 => .oraIndY b1
  | 2 => .jam12
  | 3 => .sloIndY b1
  | 4 => .nop14 b1
  | 5 => .oraZpX b1
  | 6 => .aslZpX b1
  | 7 => .sloZpX b1
  | 8 => .clc
  | 9 => .oraAbsY (word b2 b1)
  | 10 => .nop1A
  | 11 => .sloAbsY (word b2 b1)
  | 12 => .nop1C (word b2 b1)
  | 13 => .oraAbsX (word b2 b1)
  | 14 => .aslAbsX (word b2 b1)
  | _ => .sloAbsX (word b2 b1)

/-- Row `2-` of the matrix of rule R66: the instruction of the opcode byte `$20 + lo` with the operand bytes `b1`, `b2`. -/
def matrix2 (low : Nat) (b1 b2 : Byte) : Instr :=
  match low with
  | 0 => .jsr (word b2 b1)
  | 1 => .andIndX b1
  | 2 => .jam22
  | 3 => .rlaIndX b1
  | 4 => .bitZp b1
  | 5 => .andZp b1
  | 6 => .rolZp b1
  | 7 => .rlaZp b1
  | 8 => .plp
  | 9 => .andImm b1
  | 10 => .rolAcc
  | 11 => .anc2B b1
  | 12 => .bitAbs (word b2 b1)
  | 13 => .andAbs (word b2 b1)
  | 14 => .rolAbs (word b2 b1)
  | _ => .rlaAbs (word b2 b1)

/-- Row `3-` of the matrix of rule R66: the instruction of the opcode byte `$30 + lo` with the operand bytes `b1`, `b2`. -/
def matrix3 (low : Nat) (b1 b2 : Byte) : Instr :=
  match low with
  | 0 => .bmi b1
  | 1 => .andIndY b1
  | 2 => .jam32
  | 3 => .rlaIndY b1
  | 4 => .nop34 b1
  | 5 => .andZpX b1
  | 6 => .rolZpX b1
  | 7 => .rlaZpX b1
  | 8 => .sec
  | 9 => .andAbsY (word b2 b1)
  | 10 => .nop3A
  | 11 => .rlaAbsY (word b2 b1)
  | 12 => .nop3C (word b2 b1)
  | 13 => .andAbsX (word b2 b1)
  | 14 => .rolAbsX (word b2 b1)
  | _ => .rlaAbsX (word b2 b1)

/-- Row `4-` of the matrix of rule R66: the instruction of the opcode byte `$40 + lo` with the operand bytes `b1`, `b2`. -/
def matrix4 (low : Nat) (b1 b2 : Byte) : Instr :=
  match low with
  | 0 => .rti
  | 1 => .eorIndX b1
  | 2 => .jam42
  | 3 => .sreIndX b1
  | 4 => .nop44 b1
  | 5 => .eorZp b1
  | 6 => .lsrZp b1
  | 7 => .sreZp b1
  | 8 => .pha
  | 9 => .eorImm b1
  | 10 => .lsrAcc
  | 11 => .alr b1
  | 12 => .jmpAbs (word b2 b1)
  | 13 => .eorAbs (word b2 b1)
  | 14 => .lsrAbs (word b2 b1)
  | _ => .sreAbs (word b2 b1)

/-- Row `5-` of the matrix of rule R66: the instruction of the opcode byte `$50 + lo` with the operand bytes `b1`, `b2`. -/
def matrix5 (low : Nat) (b1 b2 : Byte) : Instr :=
  match low with
  | 0 => .bvc b1
  | 1 => .eorIndY b1
  | 2 => .jam52
  | 3 => .sreIndY b1
  | 4 => .nop54 b1
  | 5 => .eorZpX b1
  | 6 => .lsrZpX b1
  | 7 => .sreZpX b1
  | 8 => .cli
  | 9 => .eorAbsY (word b2 b1)
  | 10 => .nop5A
  | 11 => .sreAbsY (word b2 b1)
  | 12 => .nop5C (word b2 b1)
  | 13 => .eorAbsX (word b2 b1)
  | 14 => .lsrAbsX (word b2 b1)
  | _ => .sreAbsX (word b2 b1)

/-- Row `6-` of the matrix of rule R66: the instruction of the opcode byte `$60 + lo` with the operand bytes `b1`, `b2`. -/
def matrix6 (low : Nat) (b1 b2 : Byte) : Instr :=
  match low with
  | 0 => .rts
  | 1 => .adcIndX b1
  | 2 => .jam62
  | 3 => .rraIndX b1
  | 4 => .nop64 b1
  | 5 => .adcZp b1
  | 6 => .rorZp b1
  | 7 => .rraZp b1
  | 8 => .pla
  | 9 => .adcImm b1
  | 10 => .rorAcc
  | 11 => .arr b1
  | 12 => .jmpInd (word b2 b1)
  | 13 => .adcAbs (word b2 b1)
  | 14 => .rorAbs (word b2 b1)
  | _ => .rraAbs (word b2 b1)

/-- Row `7-` of the matrix of rule R66: the instruction of the opcode byte `$70 + lo` with the operand bytes `b1`, `b2`. -/
def matrix7 (low : Nat) (b1 b2 : Byte) : Instr :=
  match low with
  | 0 => .bvs b1
  | 1 => .adcIndY b1
  | 2 => .jam72
  | 3 => .rraIndY b1
  | 4 => .nop74 b1
  | 5 => .adcZpX b1
  | 6 => .rorZpX b1
  | 7 => .rraZpX b1
  | 8 => .sei
  | 9 => .adcAbsY (word b2 b1)
  | 10 => .nop7A
  | 11 => .rraAbsY (word b2 b1)
  | 12 => .nop7C (word b2 b1)
  | 13 => .adcAbsX (word b2 b1)
  | 14 => .rorAbsX (word b2 b1)
  | _ => .rraAbsX (word b2 b1)

/-- Row `8-` of the matrix of rule R66: the instruction of the opcode byte `$80 + lo` with the operand bytes `b1`, `b2`. -/
def matrix8 (low : Nat) (b1 b2 : Byte) : Instr :=
  match low with
  | 0 => .nop80 b1
  | 1 => .staIndX b1
  | 2 => .nop82 b1
  | 3 => .saxIndX b1
  | 4 => .styZp b1
  | 5 => .staZp b1
  | 6 => .stxZp b1
  | 7 => .saxZp b1
  | 8 => .dey
  | 9 => .nop89 b1
  | 10 => .txa
  | 11 => .ane
  | 12 => .styAbs (word b2 b1)
  | 13 => .staAbs (word b2 b1)
  | 14 => .stxAbs (word b2 b1)
  | _ => .saxAbs (word b2 b1)

/-- Row `9-` of the matrix of rule R66: the instruction of the opcode byte `$90 + lo` with the operand bytes `b1`, `b2`. -/
def matrix9 (low : Nat) (b1 b2 : Byte) : Instr :=
  match low with
  | 0 => .bcc b1
  | 1 => .staIndY b1
  | 2 => .jam92
  | 3 => .shaIndY b1
  | 4 => .styZpX b1
  | 5 => .staZpX b1
  | 6 => .stxZpY b1
  | 7 => .saxZpY b1
  | 8 => .tya
  | 9 => .staAbsY (word b2 b1)
  | 10 => .txs
  | 11 => .tas (word b2 b1)
  | 12 => .shy (word b2 b1)
  | 13 => .staAbsX (word b2 b1)
  | 14 => .shx (word b2 b1)
  | _ => .shaAbsY (word b2 b1)

/-- Row `A-` of the matrix of rule R66: the instruction of the opcode byte `$A0 + lo` with the operand bytes `b1`, `b2`. -/
def matrixA (low : Nat) (b1 b2 : Byte) : Instr :=
  match low with
  | 0 => .ldyImm b1
  | 1 => .ldaIndX b1
  | 2 => .ldxImm b1
  | 3 => .laxIndX b1
  | 4 => .ldyZp b1
  | 5 => .ldaZp b1
  | 6 => .ldxZp b1
  | 7 => .laxZp b1
  | 8 => .tay
  | 9 => .ldaImm b1
  | 10 => .tax
  | 11 => .laxAB
  | 12 => .ldyAbs (word b2 b1)
  | 13 => .ldaAbs (word b2 b1)
  | 14 => .ldxAbs (word b2 b1)
  | _ => .laxAbs (word b2 b1)

/-- Row `B-` of the matrix of rule R66: the instruction of the opcode byte `$B0 + lo` with the operand bytes `b1`, `b2`. -/
def matrixB (low : Nat) (b1 b2 : Byte) : Instr :=
  match low with
  | 0 => .bcs b1
  | 1 => .ldaIndY b1
  | 2 => .jamB2
  | 3 => .laxIndY b1
  | 4 => .ldyZpX b1
  | 5 => .ldaZpX b1
  | 6 => .ldxZpY b1
  | 7 => .laxZpY b1
  | 8 => .clv
  | 9 => .ldaAbsY (word b2 b1)
  | 10 => .tsx
  | 11 => .las (word b2 b1)
  | 12 => .ldyAbsX (word b2 b1)
  | 13 => .ldaAbsX (word b2 b1)
  | 14 => .ldxAbsY (word b2 b1)
  | _ => .laxAbsY (word b2 b1)

/-- Row `C-` of the matrix of rule R66: the instruction of the opcode byte `$C0 + lo` with the operand bytes `b1`, `b2`. -/
def matrixC (low : Nat) (b1 b2 : Byte) : Instr :=
  match low with
  | 0 => .cpyImm b1
  | 1 => .cmpIndX b1
  | 2 => .nopC2 b1
  | 3 => .dcpIndX b1
  | 4 => .cpyZp b1
  | 5 => .cmpZp b1
  | 6 => .decZp b1
  | 7 => .dcpZp b1
  | 8 => .iny
  | 9 => .cmpImm b1
  | 10 => .dex
  | 11 => .sbx b1
  | 12 => .cpyAbs (word b2 b1)
  | 13 => .cmpAbs (word b2 b1)
  | 14 => .decAbs (word b2 b1)
  | _ => .dcpAbs (word b2 b1)

/-- Row `D-` of the matrix of rule R66: the instruction of the opcode byte `$D0 + lo` with the operand bytes `b1`, `b2`. -/
def matrixD (low : Nat) (b1 b2 : Byte) : Instr :=
  match low with
  | 0 => .bne b1
  | 1 => .cmpIndY b1
  | 2 => .jamD2
  | 3 => .dcpIndY b1
  | 4 => .nopD4 b1
  | 5 => .cmpZpX b1
  | 6 => .decZpX b1
  | 7 => .dcpZpX b1
  | 8 => .cld
  | 9 => .cmpAbsY (word b2 b1)
  | 10 => .nopDA
  | 11 => .dcpAbsY (word b2 b1)
  | 12 => .nopDC (word b2 b1)
  | 13 => .cmpAbsX (word b2 b1)
  | 14 => .decAbsX (word b2 b1)
  | _ => .dcpAbsX (word b2 b1)

/-- Row `E-` of the matrix of rule R66: the instruction of the opcode byte `$E0 + lo` with the operand bytes `b1`, `b2`. -/
def matrixE (low : Nat) (b1 b2 : Byte) : Instr :=
  match low with
  | 0 => .cpxImm b1
  | 1 => .sbcIndX b1
  | 2 => .nopE2 b1
  | 3 => .iscIndX b1
  | 4 => .cpxZp b1
  | 5 => .sbcZp b1
  | 6 => .incZp b1
  | 7 => .iscZp b1
  | 8 => .inx
  | 9 => .sbcImm b1
  | 10 => .nop
  | 11 => .sbcEB b1
  | 12 => .cpxAbs (word b2 b1)
  | 13 => .sbcAbs (word b2 b1)
  | 14 => .incAbs (word b2 b1)
  | _ => .iscAbs (word b2 b1)

/-- Row `F-` of the matrix of rule R66: the instruction of the opcode byte `$F0 + lo` with the operand bytes `b1`, `b2`. -/
def matrixF (low : Nat) (b1 b2 : Byte) : Instr :=
  match low with
  | 0 => .beq b1
  | 1 => .sbcIndY b1
  | 2 => .jamF2
  | 3 => .iscIndY b1
  | 4 => .nopF4 b1
  | 5 => .sbcZpX b1
  | 6 => .incZpX b1
  | 7 => .iscZpX b1
  | 8 => .sed
  | 9 => .sbcAbsY (word b2 b1)
  | 10 => .nopFA
  | 11 => .iscAbsY (word b2 b1)
  | 12 => .nopFC (word b2 b1)
  | 13 => .sbcAbsX (word b2 b1)
  | 14 => .incAbsX (word b2 b1)
  | _ => .iscAbsX (word b2 b1)

/-- The instruction of an opcode byte with the two bytes after it (rule R52): the matrix of rule R66, row by the high
hexadecimal digit, column by the low one. Operand bytes beyond the instruction's length are not used. -/
def instrOf (op b1 b2 : Byte) : Instr :=
  let low := op.toNat % 16
  match op.toNat / 16 with
  | 0 => matrix0 low b1 b2
  | 1 => matrix1 low b1 b2
  | 2 => matrix2 low b1 b2
  | 3 => matrix3 low b1 b2
  | 4 => matrix4 low b1 b2
  | 5 => matrix5 low b1 b2
  | 6 => matrix6 low b1 b2
  | 7 => matrix7 low b1 b2
  | 8 => matrix8 low b1 b2
  | 9 => matrix9 low b1 b2
  | 10 => matrixA low b1 b2
  | 11 => matrixB low b1 b2
  | 12 => matrixC low b1 b2
  | 13 => matrixD low b1 b2
  | 14 => matrixE low b1 b2
  | _ => matrixF low b1 b2

/-- The number of bytes of the instruction an opcode byte selects (rule R51). -/
def opcodeLength (op : Byte) : Nat := (instrOf op 0 0).length

/-- Why bytes are refused by the decoder. -/
inductive DecodeError where
  /-- There is no opcode byte. -/
  | noOpcode
  /-- The opcode's operand bytes are not all there. -/
  | missingOperandBytes
deriving DecidableEq, Repr

/-- The outcome of decoding: an instruction and the bytes after it, or a refusal by name. -/
inductive Decoded where
  | ok (i : Instr) (rest : List Byte)
  | refused (e : DecodeError)
deriving DecidableEq, Repr

/-- Decode the first instruction of a list of bytes, the byte at the lowest address first (rule R32). -/
def decode : List Byte → Decoded
  | [] => .refused .noOpcode
  | op :: rest =>
    if rest.length + 1 < opcodeLength op then .refused .missingOperandBytes
    else .ok (instrOf op (rest.getD 0 0) (rest.getD 1 0)) (rest.drop (opcodeLength op - 1))

/-- The opcode byte of an instruction: the HEX column of its row. -/
def Instr.opcode : Instr → Byte
  | .brk => 0x00
  | .oraIndX _ => 0x01
  | .jam02 => 0x02
  | .sloIndX _ => 0x03
  | .nop04 _ => 0x04
  | .oraZp _ => 0x05
  | .aslZp _ => 0x06
  | .sloZp _ => 0x07
  | .php => 0x08
  | .oraImm _ => 0x09
  | .aslAcc => 0x0A
  | .anc0B _ => 0x0B
  | .nop0C _ => 0x0C
  | .oraAbs _ => 0x0D
  | .aslAbs _ => 0x0E
  | .sloAbs _ => 0x0F
  | .bpl _ => 0x10
  | .oraIndY _ => 0x11
  | .jam12 => 0x12
  | .sloIndY _ => 0x13
  | .nop14 _ => 0x14
  | .oraZpX _ => 0x15
  | .aslZpX _ => 0x16
  | .sloZpX _ => 0x17
  | .clc => 0x18
  | .oraAbsY _ => 0x19
  | .nop1A => 0x1A
  | .sloAbsY _ => 0x1B
  | .nop1C _ => 0x1C
  | .oraAbsX _ => 0x1D
  | .aslAbsX _ => 0x1E
  | .sloAbsX _ => 0x1F
  | .jsr _ => 0x20
  | .andIndX _ => 0x21
  | .jam22 => 0x22
  | .rlaIndX _ => 0x23
  | .bitZp _ => 0x24
  | .andZp _ => 0x25
  | .rolZp _ => 0x26
  | .rlaZp _ => 0x27
  | .plp => 0x28
  | .andImm _ => 0x29
  | .rolAcc => 0x2A
  | .anc2B _ => 0x2B
  | .bitAbs _ => 0x2C
  | .andAbs _ => 0x2D
  | .rolAbs _ => 0x2E
  | .rlaAbs _ => 0x2F
  | .bmi _ => 0x30
  | .andIndY _ => 0x31
  | .jam32 => 0x32
  | .rlaIndY _ => 0x33
  | .nop34 _ => 0x34
  | .andZpX _ => 0x35
  | .rolZpX _ => 0x36
  | .rlaZpX _ => 0x37
  | .sec => 0x38
  | .andAbsY _ => 0x39
  | .nop3A => 0x3A
  | .rlaAbsY _ => 0x3B
  | .nop3C _ => 0x3C
  | .andAbsX _ => 0x3D
  | .rolAbsX _ => 0x3E
  | .rlaAbsX _ => 0x3F
  | .rti => 0x40
  | .eorIndX _ => 0x41
  | .jam42 => 0x42
  | .sreIndX _ => 0x43
  | .nop44 _ => 0x44
  | .eorZp _ => 0x45
  | .lsrZp _ => 0x46
  | .sreZp _ => 0x47
  | .pha => 0x48
  | .eorImm _ => 0x49
  | .lsrAcc => 0x4A
  | .alr _ => 0x4B
  | .jmpAbs _ => 0x4C
  | .eorAbs _ => 0x4D
  | .lsrAbs _ => 0x4E
  | .sreAbs _ => 0x4F
  | .bvc _ => 0x50
  | .eorIndY _ => 0x51
  | .jam52 => 0x52
  | .sreIndY _ => 0x53
  | .nop54 _ => 0x54
  | .eorZpX _ => 0x55
  | .lsrZpX _ => 0x56
  | .sreZpX _ => 0x57
  | .cli => 0x58
  | .eorAbsY _ => 0x59
  | .nop5A => 0x5A
  | .sreAbsY _ => 0x5B
  | .nop5C _ => 0x5C
  | .eorAbsX _ => 0x5D
  | .lsrAbsX _ => 0x5E
  | .sreAbsX _ => 0x5F
  | .rts => 0x60
  | .adcIndX _ => 0x61
  | .jam62 => 0x62
  | .rraIndX _ => 0x63
  | .nop64 _ => 0x64
  | .adcZp _ => 0x65
  | .rorZp _ => 0x66
  | .rraZp _ => 0x67
  | .pla => 0x68
  | .adcImm _ => 0x69
  | .rorAcc => 0x6A
  | .arr _ => 0x6B
  | .jmpInd _ => 0x6C
  | .adcAbs _ => 0x6D
  | .rorAbs _ => 0x6E
  | .rraAbs _ => 0x6F
  | .bvs _ => 0x70
  | .adcIndY _ => 0x71
  | .jam72 => 0x72
  | .rraIndY _ => 0x73
  | .nop74 _ => 0x74
  | .adcZpX _ => 0x75
  | .rorZpX _ => 0x76
  | .rraZpX _ => 0x77
  | .sei => 0x78
  | .adcAbsY _ => 0x79
  | .nop7A => 0x7A
  | .rraAbsY _ => 0x7B
  | .nop7C _ => 0x7C
  | .adcAbsX _ => 0x7D
  | .rorAbsX _ => 0x7E
  | .rraAbsX _ => 0x7F
  | .nop80 _ => 0x80
  | .staIndX _ => 0x81
  | .nop82 _ => 0x82
  | .saxIndX _ => 0x83
  | .styZp _ => 0x84
  | .staZp _ => 0x85
  | .stxZp _ => 0x86
  | .saxZp _ => 0x87
  | .dey => 0x88
  | .nop89 _ => 0x89
  | .txa => 0x8A
  | .ane => 0x8B
  | .styAbs _ => 0x8C
  | .staAbs _ => 0x8D
  | .stxAbs _ => 0x8E
  | .saxAbs _ => 0x8F
  | .bcc _ => 0x90
  | .staIndY _ => 0x91
  | .jam92 => 0x92
  | .shaIndY _ => 0x93
  | .styZpX _ => 0x94
  | .staZpX _ => 0x95
  | .stxZpY _ => 0x96
  | .saxZpY _ => 0x97
  | .tya => 0x98
  | .staAbsY _ => 0x99
  | .txs => 0x9A
  | .tas _ => 0x9B
  | .shy _ => 0x9C
  | .staAbsX _ => 0x9D
  | .shx _ => 0x9E
  | .shaAbsY _ => 0x9F
  | .ldyImm _ => 0xA0
  | .ldaIndX _ => 0xA1
  | .ldxImm _ => 0xA2
  | .laxIndX _ => 0xA3
  | .ldyZp _ => 0xA4
  | .ldaZp _ => 0xA5
  | .ldxZp _ => 0xA6
  | .laxZp _ => 0xA7
  | .tay => 0xA8
  | .ldaImm _ => 0xA9
  | .tax => 0xAA
  | .laxAB => 0xAB
  | .ldyAbs _ => 0xAC
  | .ldaAbs _ => 0xAD
  | .ldxAbs _ => 0xAE
  | .laxAbs _ => 0xAF
  | .bcs _ => 0xB0
  | .ldaIndY _ => 0xB1
  | .jamB2 => 0xB2
  | .laxIndY _ => 0xB3
  | .ldyZpX _ => 0xB4
  | .ldaZpX _ => 0xB5
  | .ldxZpY _ => 0xB6
  | .laxZpY _ => 0xB7
  | .clv => 0xB8
  | .ldaAbsY _ => 0xB9
  | .tsx => 0xBA
  | .las _ => 0xBB
  | .ldyAbsX _ => 0xBC
  | .ldaAbsX _ => 0xBD
  | .ldxAbsY _ => 0xBE
  | .laxAbsY _ => 0xBF
  | .cpyImm _ => 0xC0
  | .cmpIndX _ => 0xC1
  | .nopC2 _ => 0xC2
  | .dcpIndX _ => 0xC3
  | .cpyZp _ => 0xC4
  | .cmpZp _ => 0xC5
  | .decZp _ => 0xC6
  | .dcpZp _ => 0xC7
  | .iny => 0xC8
  | .cmpImm _ => 0xC9
  | .dex => 0xCA
  | .sbx _ => 0xCB
  | .cpyAbs _ => 0xCC
  | .cmpAbs _ => 0xCD
  | .decAbs _ => 0xCE
  | .dcpAbs _ => 0xCF
  | .bne _ => 0xD0
  | .cmpIndY _ => 0xD1
  | .jamD2 => 0xD2
  | .dcpIndY _ => 0xD3
  | .nopD4 _ => 0xD4
  | .cmpZpX _ => 0xD5
  | .decZpX _ => 0xD6
  | .dcpZpX _ => 0xD7
  | .cld => 0xD8
  | .cmpAbsY _ => 0xD9
  | .nopDA => 0xDA
  | .dcpAbsY _ => 0xDB
  | .nopDC _ => 0xDC
  | .cmpAbsX _ => 0xDD
  | .decAbsX _ => 0xDE
  | .dcpAbsX _ => 0xDF
  | .cpxImm _ => 0xE0
  | .sbcIndX _ => 0xE1
  | .nopE2 _ => 0xE2
  | .iscIndX _ => 0xE3
  | .cpxZp _ => 0xE4
  | .sbcZp _ => 0xE5
  | .incZp _ => 0xE6
  | .iscZp _ => 0xE7
  | .inx => 0xE8
  | .sbcImm _ => 0xE9
  | .nop => 0xEA
  | .sbcEB _ => 0xEB
  | .cpxAbs _ => 0xEC
  | .sbcAbs _ => 0xED
  | .incAbs _ => 0xEE
  | .iscAbs _ => 0xEF
  | .beq _ => 0xF0
  | .sbcIndY _ => 0xF1
  | .jamF2 => 0xF2
  | .iscIndY _ => 0xF3
  | .nopF4 _ => 0xF4
  | .sbcZpX _ => 0xF5
  | .incZpX _ => 0xF6
  | .iscZpX _ => 0xF7
  | .sed => 0xF8
  | .sbcAbsY _ => 0xF9
  | .nopFA => 0xFA
  | .iscAbsY _ => 0xFB
  | .nopFC _ => 0xFC
  | .sbcAbsX _ => 0xFD
  | .incAbsX _ => 0xFE
  | .iscAbsX _ => 0xFF

/-- The operand bytes of a memory operand, low byte first (rules R31, R32). -/
def MemMode.bytes : MemMode → List Byte
  | .zeroPage b => [b]
  | .zeroPageX b => [b]
  | .zeroPageY b => [b]
  | .absolute a => [lo a, hi a]
  | .absoluteX a => [lo a, hi a]
  | .absoluteY a => [lo a, hi a]
  | .indirectX b => [b]
  | .indirectY b => [b]

/-- The operand bytes of an operand (rules R50, R53 to R65). -/
def Operand.bytes : Operand → List Byte
  | .implied => []
  | .read (.immediate b) => [b]
  | .read (.memory m) => m.bytes
  | .write m => m.bytes
  | .modify .accumulator => []
  | .modify (.memory m) => m.bytes
  | .target a => [lo a, hi a]
  | .indirect a => [lo a, hi a]
  | .relative b => [b]

/-- The bytes of an instruction, the one at the lowest address first. -/
def encode (i : Instr) : List Byte := i.opcode :: i.operand.bytes

/-- Byte `k` of a number whose bit 0 is the least significant bit of byte 0. -/
def wordByte (w k : Nat) : Byte := BitVec.ofNat 8 (w / 256 ^ k)

/-- The three bytes from which an instruction of `nbits` bits `w` is read: the bits above `nbits` are 0. -/
def wordBytes (nbits w : Nat) : List Byte :=
  let v := w % 2 ^ nbits
  [wordByte v 0, wordByte v 1, wordByte v 2]

/-- The instruction the decoder reads from an instruction's bits, numbered as `spec/opcode_table.json` numbers them. -/
def decodeTableWord (nbits w : Nat) : Option Instr :=
  match decode (wordBytes nbits w) with
  | .ok i _ => some i
  | .refused _ => none

end Sys2Proof
end

