-- ==== Sys2Proof/Machine/Fetch.lean ====
section
/-!
DEFINITION. What happens at an instruction boundary (rules R302 to R305, R314): the host's inputs are sampled, the event that is
due is chosen, an instruction is fetched from memory (rules R32, R42, R52). And the placing of an instruction where it will be
fetched.
-/

namespace Sys2Proof.Machine

/-- What a step does at a boundary. -/
inductive Event where
  | reset
  | stuck
  | nmi
  | irq
  | instruction
deriving DecidableEq, Repr

/-- Sample what the host asserts at this boundary (rule R314): IRQ is a level, an NMI edge is latched (rules R302, R303). With no
input left the host changes nothing. -/
def State.sampleInputs (s : State) : State :=
  match s.inputs with
  | [] => s
  | b :: rest =>
    { s with irqLine := b.irqLine, nmiPending := s.nmiPending || b.nmiEdge, resetPending := s.resetPending || b.reset,
             inputs := rest }

/-- The event due at a boundary: RESET first, then NMI, then IRQ if I = 0 (rules R302, R305); a jammed machine answers to
nothing but RESET (rules R240, R304). -/
def State.due (s : State) : Event :=
  if s.resetPending then .reset
  else if s.jammed then .stuck
  else if s.nmiPending then .nmi
  else if s.irqLine && !s.i then .irq
  else .instruction

/-- Whether an opcode byte is one of the 28 that `AdmitMatrixOnly` admits (rule R245). -/
def admittedByParameter (op : Byte) : Bool :=
  decide ((instrOf op 0 0).operation = .illegalNop) || decide ((instrOf op 0 0).operation = .sbcEB)

/-- How many bytes the fetch of an opcode takes: its length (rule R51), which for a matrix-only opcode is known only when
`AdmitMatrixOnly` gives it one (rules R241, R244). -/
def fetchLength (p : Params) (op : Byte) : Nat :=
  if admittedByParameter op && !p.admitMatrixOnly then 1 else opcodeLength op

/-- Fetch an operand byte if the instruction has it. -/
def State.fetchByte (needed : Bool) (a : Addr) (s : State) : Out (Byte × State) :=
  if needed then s.read a else .next (0, s)

/-- Fetch and decode the instruction at PC (rules R32, R52): the opcode byte, then the bytes its length asks for, from the same
memory as data (rule R42), addresses modulo 65536. -/
def State.fetch (s : State) : Out (Instr × State) :=
  andThen (s.read s.pc) fun op =>
  andThen (op.2.fetchByte (decide (1 < fetchLength s.params op.1)) (s.pc + 1)) fun b₁ =>
  andThen (b₁.2.fetchByte (decide (2 < fetchLength s.params op.1)) (s.pc + 2)) fun b₂ =>
  .next (instrOf op.1 b₁.1 b₂.1, b₂.2)

/-- Place bytes at PC, and let nothing else be due at the next boundary, so that the next step fetches them. -/
def State.placeAtPc (bytes : List Byte) (s : State) : State :=
  { s with mem := Memory.load s.mem s.pc bytes, jammed := false, irqLine := false, nmiPending := false,
           resetPending := false, inputs := [] }

end Sys2Proof.Machine
end

