-- ==== Sys2Proof/Machine/Timing.lean ====
section
/-!
DEFINITION. The TIM column, its `+` and branch timing (rules R72, R344 to R346). Timing is informational: no other state depends
on it (log entry 14).
-/

namespace Sys2Proof.Machine

/-- The cycle counts the last line of rule R72 gives apart from the pattern; JAM never ends, so no cycle is counted for it. -/
def fixedCycles : Operation → Option Nat
  | .brk => some 7
  | .ora => none
  | .jam => some 0
  | .slo => none
  | .illegalNop => none
  | .asl => none
  | .php => some 3
  | .anc => none
  | .bpl => none
  | .clc => none
  | .jsr => some 6
  | .and => none
  | .rla => none
  | .bit => none
  | .rol => none
  | .plp => some 4
  | .bmi => none
  | .sec => none
  | .rti => some 6
  | .eor => none
  | .sre => none
  | .lsr => none
  | .pha => some 3
  | .alr => none
  | .jmp => none
  | .bvc => none
  | .cli => none
  | .rts => some 6
  | .adc => none
  | .rra => none
  | .ror => none
  | .pla => some 4
  | .arr => none
  | .bvs => none
  | .sei => none
  | .sta => none
  | .sax => none
  | .sty => none
  | .stx => none
  | .dey => none
  | .txa => none
  | .ane => none
  | .bcc => none
  | .sha => none
  | .tya => none
  | .txs => none
  | .tas => none
  | .shy => none
  | .shx => none
  | .ldy => none
  | .lda => none
  | .ldx => none
  | .lax => none
  | .tay => none
  | .tax => none
  | .laxAB => none
  | .bcs => none
  | .clv => none
  | .tsx => none
  | .las => none
  | .cpy => none
  | .cmp => none
  | .dcp => none
  | .dec => none
  | .iny => none
  | .dex => none
  | .sbx => none
  | .bne => none
  | .cld => none
  | .cpx => none
  | .sbc => none
  | .isc => none
  | .inc => none
  | .inx => none
  | .nop => none
  | .sbcEB => none
  | .beq => none
  | .sed => none

/-- The column "read" of rule R72, without the `+`. -/
def readCycles : MemMode → Nat
  | .zeroPage _ => 3
  | .zeroPageX _ => 4
  | .zeroPageY _ => 4
  | .absolute _ => 4
  | .absoluteX _ => 4
  | .absoluteY _ => 4
  | .indirectX _ => 6
  | .indirectY _ => 5

/-- The column "write" of rule R72. -/
def writeCycles : MemMode → Nat
  | .zeroPage _ => 3
  | .zeroPageX _ => 4
  | .zeroPageY _ => 4
  | .absolute _ => 4
  | .absoluteX _ => 5
  | .absoluteY _ => 5
  | .indirectX _ => 6
  | .indirectY _ => 6

/-- The column "read-modify-write" of rule R72. -/
def modifyCycles : MemMode → Nat
  | .zeroPage _ => 5
  | .zeroPageX _ => 6
  | .zeroPageY _ => 6
  | .absolute _ => 6
  | .absoluteX _ => 7
  | .absoluteY _ => 7
  | .indirectX _ => 8
  | .indirectY _ => 8

/-- The printed number of the TIM column (rule R72), by the operand where the operation does not fix it. -/
def baseCycles (f : Form) : Nat :=
  match fixedCycles f.operation with
  | some k => k
  | none =>
    match f.operand with
    | .implied => 2
    | .read (.immediate _) => 2
    | .read (.memory m) => readCycles m
    | .write m => writeCycles m
    | .modify .accumulator => 2
    | .modify (.memory m) => modifyCycles m
    | .target _ => 3
    | .indirect _ => 5
    | .relative _ => 2

/-- Whether a memory operand crosses a page (rules R60, R61, R64). -/
def pageCrossed (m : MemMode) (s : State) : Bool :=
  match s.locate m with
  | .next l => l.1.crossed
  | .fault _ => false
  | .refused _ => false

/-- The condition of a branch (rules R104 to R111); no other operation branches. -/
def branchTaken (op : Operation) (s : State) : Bool :=
  match op with
  | .bcc => !s.c
  | .bcs => s.c
  | .beq => s.z
  | .bne => !s.z
  | .bmi => s.n
  | .bpl => !s.n
  | .bvc => !s.v
  | .bvs => s.v
  | _ => false

/-- The cycles of a branch beyond 2 (rule R345): the page compared is that of the instruction after the branch. -/
def branchExtra (taken : Bool) (offset : Byte) (s : State) : Nat :=
  if taken then (if hi (s.pc + 2 + sext16 offset) = hi (s.pc + 2) then 1 else 2) else 0

/-- The cycles of an instruction in the state it starts from (rules R344 to R346): an indexed read takes one more when the page
is crossed. -/
def cyclesOf (i : Instr) (s : State) : Nat :=
  baseCycles i.form +
    match i.operand with
    | .read (.memory m) => (pageCrossed m s).toNat
    | .relative offset => branchExtra (branchTaken i.operation s) offset s
    | .read (.immediate _) => 0
    | .implied => 0
    | .write _ => 0
    | .modify _ => 0
    | .target _ => 0
    | .indirect _ => 0

end Sys2Proof.Machine
end

