-- ==== Sys2Proof/Machine/Step.lean ====
section
/-!
DEFINITION. One step of the machine (rules R39, R305, R314): one instruction, or one RESET, NMI or IRQ entry.
-/

namespace Sys2Proof.Machine

/-- One step: sample the host's inputs, then do what is due; an instruction is fetched, executed, and its cycles counted. -/
def step (s : State) : Host.Outcome State Fault Refusal :=
  let b := s.sampleInputs
  match b.due with
  | .reset => b.takeReset
  | .stuck => .fault .jammed
  | .nmi => b.takeNmi
  | .irq => b.takeIrq
  | .instruction =>
    andThen b.fetch fun f => andThen (exec f.1 f.2) fun t => .next (t.addCycles (cyclesOf f.1 f.2))

/-- The state with the instruction whose bits are `w` where the next step fetches it (log entry 15). -/
def State.withFetchWord (s : State) (nbits w : Nat) : State := s.placeAtPc (wordBytes nbits w)

end Sys2Proof.Machine
end

