-- ==== Sys2Proof/Machine/Run.lean ====
section
/-!
DEFINITION. A run of the machine from the state the host loads to its end (rule R347, decision D22): which instruction a step
executes, the parameter `EndOfRun`, the conventions the rule lists for it, and what the host is given at the end.
-/

namespace Sys2Proof.Machine

/-- The instruction at PC, if its bytes can be read. -/
def State.atPc (s : State) : Option Instr :=
  match s.fetch with
  | .next f => some f.1
  | .fault _ => none
  | .refused _ => none

/-- The instruction the next step executes; none when it takes a RESET, an NMI or an IRQ, is stuck, or cannot fetch (rules R302
to R305, R314). -/
def State.nextInstruction (s : State) : Option Instr :=
  match s.sampleInputs.due with
  | .instruction => s.sampleInputs.atPc
  | .reset => none
  | .stuck => none
  | .nmi => none
  | .irq => none

/-- A run so far: the state it has reached, how many instructions it has executed, and the one its last step executed. -/
structure Run where
  state : State
  executed : Nat
  last : Option Instr
deriving DecidableEq, Repr

/-- The run before its first step. -/
def Run.start (s : State) : Run := { state := s, executed := 0, last := none }

/-- One step more; an interrupt or RESET entry is a step but no instruction (rule R39). -/
def Run.next (r : Run) : Out Run :=
  andThen (step r.state) fun t =>
  .next { state := t, executed := r.executed + r.state.nextInstruction.toList.length, last := r.state.nextInstruction }

/-- The parameter `EndOfRun` of rules R5 and R347: a predicate the harness chooses. It sees the machine state, and how the run
came to it. -/
abbrev EndOfRun := Run → Bool

/-- The conventions rule R347 gives as examples of `EndOfRun`. -/
inductive Convention where
  | selfJump
  | brkAsExit
  | stepBound (n : Nat)
  | jam
deriving DecidableEq, Repr

/-- The instruction at PC is `JMP` Absolute to its own address, or a taken branch with offset `$FE`. -/
def State.atSelfJump (s : State) : Bool :=
  match s.atPc with
  | some i =>
    decide (i = .jmpAbs s.pc) || (decide (i.operand = .relative 0xFE) && branchTaken i.operation s)
  | none => false

/-- The end condition of a convention: the self-jump at PC, a BRK executed, N instructions executed, a JAM opcode executed. -/
def Convention.endOfRun (c : Convention) : EndOfRun := fun r =>
  match c with
  | .selfJump => r.state.atSelfJump
  | .brkAsExit => decide (r.last = some .brk)
  | .stepBound n => decide (n ≤ r.executed)
  | .jam => decide (r.last.map Instr.operation = some .jam)

/-- What the host is given: the run at its end, or the reason it stopped and the run up to there. -/
inductive RunEnd where
  /-- `EndOfRun` holds. -/
  | ended (r : Run)
  /-- The next step is a fault, or the machine is stuck (`jammed`). -/
  | fault (why : Fault) (r : Run)
  /-- The next step is refused. -/
  | refused (why : Refusal) (r : Run)
  /-- The given number of steps has not reached an end. -/
  | unfinished (r : Run)
deriving DecidableEq, Repr

/-- Run until `EndOfRun` holds, for at most the given number of steps. -/
def runUntil (e : EndOfRun) : Nat → Run → RunEnd
  | 0, r => if e r then .ended r else .unfinished r
  | k + 1, r =>
    if e r then .ended r
    else
      match r.next with
      | .next r' => runUntil e k r'
      | .fault why => .fault why r
      | .refused why => .refused why r

end Sys2Proof.Machine
end

