-- ==== Sys2Proof/Safety.lean ====
section
/-!
DEFINITION. What counts as a good state, and what counts as the result of a run: the invariant every step keeps, and the last
column of the conventions of rule R347.
-/

namespace Sys2Proof.Machine

/-- What the host has been told lies in device cells (rule R46). -/
def State.logWf (s : State) : Bool :=
  s.deviceLog.all fun cell => decide (cell.1 < 65536) && decide (kindIn s.params.memMap cell.1 = .device false)

/-- The invariant: memory is in canonical form, and the host was told only of writes to device cells. -/
def State.Inv (s : State) : Bool := Memory.wf s.mem && s.logWf

/-- Whether the end a convention names is a result; a step bound is not: an unfinished run proves nothing (rule R347). -/
def Convention.isResult : Convention → Bool
  | .selfJump => true
  | .brkAsExit => true
  | .stepBound _ => false
  | .jam => true

/-- Whether a run under a convention has a result: a run that ends in a fault or a refusal has none (rule R347). -/
def RunEnd.isResult (c : Convention) : RunEnd → Bool
  | .ended _ => c.isResult
  | .fault _ _ => false
  | .refused _ _ => false
  | .unfinished _ => false

end Sys2Proof.Machine
end

