-- ==== Sys2Proof/Certificates/Slice0/Obligations.lean ====
section
/-!
DEFINITION. The statements for the provers. `Sys2Proof.Statements` holds what several of them share: the matrix of rule R66, and
what a write, a push and a row of the opcode table say.
-/

namespace Sys2Proof.Statements

open Sys2Proof.Machine

/-- Row `0-` of the opcode matrix: the operation, the addressing mode and the printed cycle count of each column. -/
def row0 : List (Operation × Mode × Nat) :=
  [(.brk, .implied, 7), (.ora, .indirectX, 6), (.jam, .implied, 0), (.slo, .indirectX, 8), (.illegalNop, .zeroPage, 3),
   (.ora, .zeroPage, 3), (.asl, .zeroPage, 5), (.slo, .zeroPage, 5), (.php, .implied, 3), (.ora, .immediate, 2),
   (.asl, .accumulator, 2), (.anc, .immediate, 2), (.illegalNop, .absolute, 4), (.ora, .absolute, 4), (.asl, .absolute, 6),
   (.slo, .absolute, 6)]
/-- Row `1-` of the opcode matrix: the operation, the addressing mode and the printed cycle count of each column. -/
def row1 : List (Operation × Mode × Nat) :=
  [(.bpl, .relative, 2), (.ora, .indirectY, 5), (.jam, .implied, 0), (.slo, .indirectY, 8), (.illegalNop, .zeroPageX, 4),
   (.ora, .zeroPageX, 4), (.asl, .zeroPageX, 6), (.slo, .zeroPageX, 6), (.clc, .implied, 2), (.ora, .absoluteY, 4),
   (.illegalNop, .implied, 2), (.slo, .absoluteY, 7), (.illegalNop, .absoluteX, 4), (.ora, .absoluteX, 4),
   (.asl, .absoluteX, 7), (.slo, .absoluteX, 7)]
/-- Row `2-` of the opcode matrix: the operation, the addressing mode and the printed cycle count of each column. -/
def row2 : List (Operation × Mode × Nat) :=
  [(.jsr, .absolute, 6), (.and, .indirectX, 6), (.jam, .implied, 0), (.rla, .indirectX, 8), (.bit, .zeroPage, 3),
   (.and, .zeroPage, 3), (.rol, .zeroPage, 5), (.rla, .zeroPage, 5), (.plp, .implied, 4), (.and, .immediate, 2),
   (.rol, .accumulator, 2), (.anc, .immediate, 2), (.bit, .absolute, 4), (.and, .absolute, 4), (.rol, .absolute, 6),
   (.rla, .absolute, 6)]
/-- Row `3-` of the opcode matrix: the operation, the addressing mode and the printed cycle count of each column. -/
def row3 : List (Operation × Mode × Nat) :=
  [(.bmi, .relative, 2), (.and, .indirectY, 5), (.jam, .implied, 0), (.rla, .indirectY, 8), (.illegalNop, .zeroPageX, 4),
   (.and, .zeroPageX, 4), (.rol, .zeroPageX, 6), (.rla, .zeroPageX, 6), (.sec, .implied, 2), (.and, .absoluteY, 4),
   (.illegalNop, .implied, 2), (.rla, .absoluteY, 7), (.illegalNop, .absoluteX, 4), (.and, .absoluteX, 4),
   (.rol, .absoluteX, 7), (.rla, .absoluteX, 7)]
/-- Row `4-` of the opcode matrix: the operation, the addressing mode and the printed cycle count of each column. -/
def row4 : List (Operation × Mode × Nat) :=
  [(.rti, .implied, 6), (.eor, .indirectX, 6), (.jam, .implied, 0), (.sre, .indirectX, 8), (.illegalNop, .zeroPage, 3),
   (.eor, .zeroPage, 3), (.lsr, .zeroPage, 5), (.sre, .zeroPage, 5), (.pha, .implied, 3), (.eor, .immediate, 2),
   (.lsr, .accumulator, 2), (.alr, .immediate, 2), (.jmp, .absolute, 3), (.eor, .absolute, 4), (.lsr, .absolute, 6),
   (.sre, .absolute, 6)]
/-- Row `5-` of the opcode matrix: the operation, the addressing mode and the printed cycle count of each column. -/
def row5 : List (Operation × Mode × Nat) :=
  [(.bvc, .relative, 2), (.eor, .indirectY, 5), (.jam, .implied, 0), (.sre, .indirectY, 8), (.illegalNop, .zeroPageX, 4),
   (.eor, .zeroPageX, 4), (.lsr, .zeroPageX, 6), (.sre, .zeroPageX, 6), (.cli, .implied, 2), (.eor, .absoluteY, 4),
   (.illegalNop, .implied, 2), (.sre, .absoluteY, 7), (.illegalNop, .absoluteX, 4), (.eor, .absoluteX, 4),
   (.lsr, .absoluteX, 7), (.sre, .absoluteX, 7)]
/-- Row `6-` of the opcode matrix: the operation, the addressing mode and the printed cycle count of each column. -/
def row6 : List (Operation × Mode × Nat) :=
  [(.rts, .implied, 6), (.adc, .indirectX, 6), (.jam, .implied, 0), (.rra, .indirectX, 8), (.illegalNop, .zeroPage, 3),
   (.adc, .zeroPage, 3), (.ror, .zeroPage, 5), (.rra, .zeroPage, 5), (.pla, .implied, 4), (.adc, .immediate, 2),
   (.ror, .accumulator, 2), (.arr, .immediate, 2), (.jmp, .indirect, 5), (.adc, .absolute, 4), (.ror, .absolute, 6),
   (.rra, .absolute, 6)]
/-- Row `7-` of the opcode matrix: the operation, the addressing mode and the printed cycle count of each column. -/
def row7 : List (Operation × Mode × Nat) :=
  [(.bvs, .relative, 2), (.adc, .indirectY, 5), (.jam, .implied, 0), (.rra, .indirectY, 8), (.illegalNop, .zeroPageX, 4),
   (.adc, .zeroPageX, 4), (.ror, .zeroPageX, 6), (.rra, .zeroPageX, 6), (.sei, .implied, 2), (.adc, .absoluteY, 4),
   (.illegalNop, .implied, 2), (.rra, .absoluteY, 7), (.illegalNop, .absoluteX, 4), (.adc, .absoluteX, 4),
   (.ror, .absoluteX, 7), (.rra, .absoluteX, 7)]
/-- Row `8-` of the opcode matrix: the operation, the addressing mode and the printed cycle count of each column. -/
def row8 : List (Operation × Mode × Nat) :=
  [(.illegalNop, .immediate, 2), (.sta, .indirectX, 6), (.illegalNop, .immediate, 2), (.sax, .indirectX, 6),
   (.sty, .zeroPage, 3), (.sta, .zeroPage, 3), (.stx, .zeroPage, 3), (.sax, .zeroPage, 3), (.dey, .implied, 2),
   (.illegalNop, .immediate, 2), (.txa, .implied, 2), (.ane, .implied, 2), (.sty, .absolute, 4), (.sta, .absolute, 4),
   (.stx, .absolute, 4), (.sax, .absolute, 4)]
/-- Row `9-` of the opcode matrix: the operation, the addressing mode and the printed cycle count of each column. -/
def row9 : List (Operation × Mode × Nat) :=
  [(.bcc, .relative, 2), (.sta, .indirectY, 6), (.jam, .implied, 0), (.sha, .indirectY, 6), (.sty, .zeroPageX, 4),
   (.sta, .zeroPageX, 4), (.stx, .zeroPageY, 4), (.sax, .zeroPageY, 4), (.tya, .implied, 2), (.sta, .absoluteY, 5),
   (.txs, .implied, 2), (.tas, .absoluteY, 5), (.shy, .absoluteX, 5), (.sta, .absoluteX, 5), (.shx, .absoluteY, 5),
   (.sha, .absoluteY, 5)]
/-- Row `A-` of the opcode matrix: the operation, the addressing mode and the printed cycle count of each column. -/
def rowA : List (Operation × Mode × Nat) :=
  [(.ldy, .immediate, 2), (.lda, .indirectX, 6), (.ldx, .immediate, 2), (.lax, .indirectX, 6), (.ldy, .zeroPage, 3),
   (.lda, .zeroPage, 3), (.ldx, .zeroPage, 3), (.lax, .zeroPage, 3), (.tay, .implied, 2), (.lda, .immediate, 2),
   (.tax, .implied, 2), (.laxAB, .implied, 2), (.ldy, .absolute, 4), (.lda, .absolute, 4), (.ldx, .absolute, 4),
   (.lax, .absolute, 4)]
/-- Row `B-` of the opcode matrix: the operation, the addressing mode and the printed cycle count of each column. -/
def rowB : List (Operation × Mode × Nat) :=
  [(.bcs, .relative, 2), (.lda, .indirectY, 5), (.jam, .implied, 0), (.lax, .indirectY, 5), (.ldy, .zeroPageX, 4),
   (.lda, .zeroPageX, 4), (.ldx, .zeroPageY, 4), (.lax, .zeroPageY, 4), (.clv, .implied, 2), (.lda, .absoluteY, 4),
   (.tsx, .implied, 2), (.las, .absoluteY, 4), (.ldy, .absoluteX, 4), (.lda, .absoluteX, 4), (.ldx, .absoluteY, 4),
   (.lax, .absoluteY, 4)]
/-- Row `C-` of the opcode matrix: the operation, the addressing mode and the printed cycle count of each column. -/
def rowC : List (Operation × Mode × Nat) :=
  [(.cpy, .immediate, 2), (.cmp, .indirectX, 6), (.illegalNop, .immediate, 2), (.dcp, .indirectX, 8), (.cpy, .zeroPage, 3),
   (.cmp, .zeroPage, 3), (.dec, .zeroPage, 5), (.dcp, .zeroPage, 5), (.iny, .implied, 2), (.cmp, .immediate, 2),
   (.dex, .implied, 2), (.sbx, .immediate, 2), (.cpy, .absolute, 4), (.cmp, .absolute, 4), (.dec, .absolute, 6),
   (.dcp, .absolute, 6)]
/-- Row `D-` of the opcode matrix: the operation, the addressing mode and the printed cycle count of each column. -/
def rowD : List (Operation × Mode × Nat) :=
  [(.bne, .relative, 2), (.cmp, .indirectY, 5), (.jam, .implied, 0), (.dcp, .indirectY, 8), (.illegalNop, .zeroPageX, 4),
   (.cmp, .zeroPageX, 4), (.dec, .zeroPageX, 6), (.dcp, .zeroPageX, 6), (.cld, .implied, 2), (.cmp, .absoluteY, 4),
   (.illegalNop, .implied, 2), (.dcp, .absoluteY, 7), (.illegalNop, .absoluteX, 4), (.cmp, .absoluteX, 4),
   (.dec, .absoluteX, 7), (.dcp, .absoluteX, 7)]
/-- Row `E-` of the opcode matrix: the operation, the addressing mode and the printed cycle count of each column. -/
def rowE : List (Operation × Mode × Nat) :=
  [(.cpx, .immediate, 2), (.sbc, .indirectX, 6), (.illegalNop, .immediate, 2), (.isc, .indirectX, 8), (.cpx, .zeroPage, 3),
   (.sbc, .zeroPage, 3), (.inc, .zeroPage, 5), (.isc, .zeroPage, 5), (.inx, .implied, 2), (.sbc, .immediate, 2),
   (.nop, .implied, 2), (.sbcEB, .immediate, 2), (.cpx, .absolute, 4), (.sbc, .absolute, 4), (.inc, .absolute, 6),
   (.isc, .absolute, 6)]
/-- Row `F-` of the opcode matrix: the operation, the addressing mode and the printed cycle count of each column. -/
def rowF : List (Operation × Mode × Nat) :=
  [(.beq, .relative, 2), (.sbc, .indirectY, 5), (.jam, .implied, 0), (.isc, .indirectY, 8), (.illegalNop, .zeroPageX, 4),
   (.sbc, .zeroPageX, 4), (.inc, .zeroPageX, 6), (.isc, .zeroPageX, 6), (.sed, .implied, 2), (.sbc, .absoluteY, 4),
   (.illegalNop, .implied, 2), (.isc, .absoluteY, 7), (.illegalNop, .absoluteX, 4), (.sbc, .absoluteX, 4),
   (.inc, .absoluteX, 7), (.isc, .absoluteX, 7)]

/-- The matrix of rule R66, row by row. -/
def rows : List (List (Operation × Mode × Nat)) :=
  [row0, row1, row2, row3, row4, row5, row6, row7, row8, row9, rowA, rowB, rowC, rowD, rowE, rowF]

/-- The cell of the matrix for an opcode byte: row = high hex digit, column = low hex digit. -/
def cell (op : Byte) : Operation × Mode × Nat :=
  (rows.getD (op.toNat / 16) []).getD (op.toNat % 16) (.nop, .implied, 0)

/-- The 27 illegal NOP opcode bytes of rule R241 with the lengths of G15. -/
def illegalNops : List (Byte × Nat) :=
  [(0x04, 2), (0x0C, 3), (0x14, 2), (0x1A, 1), (0x1C, 3), (0x34, 2), (0x3A, 1), (0x3C, 3), (0x44, 2), (0x54, 2), (0x5A, 1),
   (0x5C, 3), (0x64, 2), (0x74, 2), (0x7A, 1), (0x7C, 3), (0x80, 2), (0x82, 2), (0x89, 2), (0xC2, 2), (0xD4, 2), (0xDA, 1),
   (0xDC, 3), (0xE2, 2), (0xF4, 2), (0xFA, 1), (0xFC, 3)]

/-- The twelve JAM opcode bytes of rule R240. -/
def jams : List Byte := [0x02, 0x12, 0x22, 0x32, 0x42, 0x52, 0x62, 0x72, 0x92, 0xB2, 0xD2, 0xF2]

/-- The row of a one-byte instruction: its HEX byte alone decodes to it, LEN 1, and TIM in every state. -/
def oneByteRow (i : Instr) (op : Byte) (tim : Nat) : Prop :=
  decode [op] = .ok i [] ∧ i.operand = .implied ∧ i.length = 1 ∧ ∀ s : State, cyclesOf i s = tim

/-- The state after the byte `b` is written to the address `a` (rule R46): a RAM cell holds it, the host is told of it when the
cell is a device, a ROM or unmapped cell ignores it, and nothing else changes. -/
def stored (s : State) (a : Addr) (b : Byte) : State :=
  { s with mem := if s.kindAt a = .ram then Memory.set s.mem a.toNat b else s.mem,
           deviceLog := if s.kindAt a = .device false then s.deviceLog ++ [(a.toNat, b)] else s.deviceLog }

/-- The state after a push of `b` (rule R36): the byte at `$0100 + S`, then S one less. -/
def pushed (s : State) (b : Byte) : State := { stored s (stackAddr s.sp) b with sp := s.sp - 1 }

/-- The `n` bytes of the stack that the next pushes write are in cells a write can reach. -/
def stackWritable (s : State) (n : Nat) : Prop :=
  ∀ k < n, s.kindAt (stackAddr (s.sp - BitVec.ofNat 8 k)) ≠ .device true

/-- A RAM or ROM cell that holds the byte `b`. -/
def holds (s : State) (a : Addr) (b : Byte) : Prop := (s.kindAt a = .ram ∨ s.kindAt a = .rom) ∧ s.peek a = some b

/-- A number that fits a signed byte. -/
def signed8Range (k : Int) : Prop := -128 ≤ k ∧ k ≤ 127

/-- The value of a packed pair of decimal digits. -/
def bcd (b : Byte) : Nat := b.toNat / 16 * 10 + b.toNat % 16

/-- Both digits are decimal. -/
def validBcd (b : Byte) : Prop := b.toNat / 16 ≤ 9 ∧ b.toNat % 16 ≤ 9

/-- The operations that write A: those of rule R10, PLA among them, and SBC `$EB`. -/
def writesA (f : Form) : Bool :=
  [.adc, .and, .eor, .ora, .sbc, .lda, .pla, .txa, .tya, .slo, .rla, .sre, .rra, .lax, .isc, .anc, .alr, .arr, .las,
    .sbcEB].contains f.operation ||
  ([.asl, .lsr, .rol, .ror].contains f.operation && decide (f.operand = .modify .accumulator))

/-- The operations that write X (rule R11). -/
def writesX (op : Operation) : Bool := [.ldx, .tax, .tsx, .inx, .dex, .lax, .sbx, .las].contains op

/-- The operations that write Y (rule R12). -/
def writesY (op : Operation) : Bool := [.ldy, .tay, .iny, .dey].contains op

/-- The operations that write S (rule R13). -/
def writesS (op : Operation) : Bool := [.txs, .las, .tas, .pha, .php, .pla, .plp, .jsr, .rts, .rti, .brk].contains op

/-- The operations that write C (rule R17), and SBC `$EB`. -/
def writesC (op : Operation) : Bool :=
  [.adc, .sbc, .asl, .lsr, .rol, .ror, .cmp, .cpx, .cpy, .clc, .sec, .plp, .rti, .slo, .rla, .sre, .rra, .dcp, .isc, .anc, .alr,
    .arr, .sbx, .sbcEB].contains op

/-- The operations that write V (rule R22), and SBC `$EB`. -/
def writesV (op : Operation) : Bool := [.adc, .sbc, .rra, .isc, .bit, .arr, .clv, .plp, .rti, .sbcEB].contains op

/-- The operations that write D (rule R20). -/
def writesD (op : Operation) : Bool := [.cld, .sed, .plp, .rti].contains op

/-- The operations that write I (rule R19). -/
def writesI (op : Operation) : Bool := [.cli, .sei, .plp, .rti, .brk].contains op

/-- The operations that leave N and Z alone: those whose rule lists neither among its flags. -/
def keepsNZ (op : Operation) : Bool :=
  [.bcc, .bcs, .beq, .bne, .bmi, .bpl, .bvc, .bvs, .brk, .clc, .sec, .cld, .sed, .cli, .sei, .clv, .jmp, .jsr, .nop, .txs, .rts,
    .pha, .php, .sta, .stx, .sty, .sax, .sha, .shx, .shy, .tas, .jam, .illegalNop].contains op

/-- The operations whose effect depends on D: decimal arithmetic (rules R20, R93), and PHP and BRK, which push D. -/
def readsD (op : Operation) : Bool := [.adc, .sbc, .rra, .isc, .arr, .sbcEB, .php, .brk].contains op

/-- The operations that put PC elsewhere or leave it: those rule R71 names, and JAM. -/
def movesPc (op : Operation) : Bool :=
  [.jmp, .jsr, .rts, .rti, .brk, .bcc, .bcs, .beq, .bne, .bmi, .bpl, .bvc, .bvs, .jam].contains op

/-- The answer of a step with one field of its next state changed. -/
def answerWithD (d : Bool) (o : Out State) : Out State := andThen o fun t => .next { t with d := d }

end Sys2Proof.Statements

open Sys2Proof Sys2Proof.Machine Sys2Proof.Statements

/-- For every well-formed instruction i (all 256 constructors, every operand byte or word) and every list of bytes after it,
decode (encode i ++ rest) is i with rest left over. -/
def Obligations.DecodeEncodeRoundTrip : Prop :=
  ∀ (i : Instr) (rest : List Byte), i.wellFormed = true → decode (encode i ++ rest) = .ok i rest

/-- For every list of bytes: if the decoder answers instruction i with rest left over, the bytes are the encoding of i followed
by rest, and i is well formed. No bit of an instruction is dropped. -/
def Obligations.EncodeDecodeRoundTrip : Prop :=
  ∀ (bytes : List Byte) (i : Instr) (rest : List Byte),
    decode bytes = .ok i rest → encode i ++ rest = bytes ∧ i.wellFormed = true

/-- For every opcode byte followed by two bytes and more, the decoder answers an instruction whose first byte is that opcode and
whose operation is the one of the matrix cell (row = high hex digit, column = low hex digit). The matrix-only cells, which
the rule prints in lower case, are the operations jam, illegalNop, ane, laxAB and sbcEB. -/
def Obligations.EveryOpcodeByteDecodes : Prop :=
  ∀ (op b₁ b₂ : Byte) (rest : List Byte), ∃ (i : Instr) (left : List Byte),
    decode (op :: b₁ :: b₂ :: rest) = .ok i left ∧ i.opcode = op ∧ i.operation = (cell op).1

/-- For every instruction: its operation, its addressing mode and its printed cycle count are those of the row of its opcode
byte; its encoding has the length of its mode, which is 1 for Implied and Accumulator, 3 for Absolute, Absolute,X,
Absolute,Y and Indirect, and 2 for every other mode. For the matrix-only rows mode and time are the model's choice (log
entries 6, 10, 11, 14): those of G15 for the illegal NOPs and SBC $EB; one byte for JAM, ANE and LAX $AB. -/
def Obligations.EveryRowHasItsModeLengthAndTime : Prop :=
  ∀ i : Instr,
    (i.operation, i.operand.mode, baseCycles i.form) = cell i.opcode ∧ (encode i).length = i.length ∧
    (i.length = 1 ↔ i.operand.mode ∈ [.implied, .accumulator]) ∧
    (i.length = 3 ↔ i.operand.mode ∈ [.absolute, .absoluteX, .absoluteY, .indirect]) ∧
    (i.length = 2 ↔ i.operand.mode ∈ [.immediate, .zeroPage, .zeroPageX, .zeroPageY, .indirectX, .indirectY, .relative])

/-- The byte strings of the examples, one or more for each family: 4C 97 55 is JMP $5597, 6D 00 44 is ADC $4400, 69 50 is ADC
#$50, 0A is ASL A, D0 FB is BNE with offset $FB, 24 44 is BIT $44, 96 44 is STX $44,Y, 07 44 is SLO $44, 9F 00 44 is SHA
$4400,Y, 6C FF 30 is JMP ($30FF), 48 is PHA, 78 is SEI, 02 is JAM, EB F0 is SBC $EB, B1 44 is LDA ($44),Y. -/
def Obligations.WordsOfTheSpecDecode : Prop :=
  decode [0x4C, 0x97, 0x55] = .ok (.jmpAbs 0x5597) [] ∧ decode [0x6D, 0x00, 0x44] = .ok (.adcAbs 0x4400) [] ∧
  decode [0x69, 0x50] = .ok (.adcImm 0x50) [] ∧ decode [0x0A] = .ok .aslAcc [] ∧
  decode [0xD0, 0xFB] = .ok (.bne 0xFB) [] ∧ decode [0x24, 0x44] = .ok (.bitZp 0x44) [] ∧
  decode [0x96, 0x44] = .ok (.stxZpY 0x44) [] ∧ decode [0x07, 0x44] = .ok (.sloZp 0x44) [] ∧
  decode [0x9F, 0x00, 0x44] = .ok (.shaAbsY 0x4400) [] ∧ decode [0x6C, 0xFF, 0x30] = .ok (.jmpInd 0x30FF) [] ∧
  decode [0x48] = .ok .pha [] ∧ decode [0x78] = .ok .sei [] ∧ decode [0x02] = .ok .jam02 [] ∧
  decode [0xEB, 0xF0] = .ok (.sbcEB 0xF0) [] ∧ decode [0xB1, 0x44] = .ok (.ldaIndY 0x44) []

/-- Let b be the state after the host's inputs are sampled. If no RESET, stuck, NMI or IRQ is due in b, and the bytes decode to
the well-formed instruction i with nothing left over and lie in RAM or ROM cells at PC and the addresses after it, then a
step is exec of i at b; a next state of exec has the cycles of i (as they are in b) added to the informational count, and
nothing else is added; a fault or a refusal of exec is the step's. -/
def Obligations.StepRunsTheDecodedInstruction : Prop :=
  ∀ (s : State) (i : Instr) (bytes : List Byte), s.sampleInputs.due = .instruction → i.wellFormed = true →
    decode bytes = .ok i [] →
    (∀ (k : Nat) (v : Byte), bytes[k]? = some v → holds s.sampleInputs (s.sampleInputs.pc + BitVec.ofNat 16 k) v) →
    step s = andThen (exec i s.sampleInputs) fun t =>
      .next { t with cycles := t.cycles + cyclesOf i s.sampleInputs }

/-- For every instruction other than JMP, JSR, RTS, RTI, BRK, the eight branches and JAM, whenever exec answers a next state,
its PC is (PC + len) mod 65536 with len the length of the instruction (its encoding); a branch whose condition does not hold
leaves PC + 2 mod 65536. JAM, whose rule leaves PC as it is, is excepted; ANE and LAX $AB never answer a next state. -/
def Obligations.PcAdvancesByTheLength : Prop :=
  ∀ (i : Instr) (s t : State), exec i s = .next t →
    (movesPc i.operation = false → t.pc.toNat = (s.pc.toNat + (encode i).length) % 65536) ∧
    (∀ offset : Byte, i.operand = .relative offset → branchTaken i.operation s = false →
      t.pc.toNat = (s.pc.toNat + 2) % 65536)

/-- For every operand byte b1 and state: Zero Page gives the address b1; Zero Page,X gives (b1 + X) mod 256; Zero Page,Y gives
(b1 + Y) mod 256; each is found in every state without changing it, crosses no page, and has length 2. An instruction with a
Zero Page,Y operand is an LDX, an STX, a LAX or a SAX. -/
def Obligations.ZeroPageAddresses : Prop :=
  ∀ (b : Byte) (s : State),
    (∃ ea : Addr, s.locate (.zeroPage b) = .next (⟨ea, false⟩, s) ∧ ea.toNat = b.toNat) ∧
    (∃ ea : Addr, s.locate (.zeroPageX b) = .next (⟨ea, false⟩, s) ∧ ea.toNat = (b.toNat + s.x.toNat) % 256) ∧
    (∃ ea : Addr, s.locate (.zeroPageY b) = .next (⟨ea, false⟩, s) ∧ ea.toNat = (b.toNat + s.y.toNat) % 256) ∧
    (MemMode.zeroPage b).length = 2 ∧ (MemMode.zeroPageX b).length = 2 ∧ (MemMode.zeroPageY b).length = 2 ∧
    (∀ i : Instr, i.operand ∈ [.read (.memory (.zeroPageY b)), .write (.zeroPageY b), .modify (.memory (.zeroPageY b))] →
      i.operation ∈ [.ldx, .stx, .lax, .sax])

/-- For every operand word and state: Absolute gives the word itself, in every state; Absolute,X gives (base + X) mod 65536 and
Absolute,Y (base + Y) mod 65536, with a page crossed exactly when the high bytes of the address and of the base differ,
unless the cell with the base's high byte and the address's low byte (the one the real part also reads) is a device whose
reads have side effects: then the instruction is refused, naming that cell. -/
def Obligations.AbsoluteAddresses : Prop :=
  ∀ (base : Addr) (s : State),
    s.locate (.absolute base) = .next (⟨base, false⟩, s) ∧
    (∀ (m : MemMode) (index : Byte), m = .absoluteX base ∧ index = s.x ∨ m = .absoluteY base ∧ index = s.y →
      ∃ ea uncarried : Addr, ea.toNat = (base.toNat + index.toNat) % 65536 ∧
        uncarried.toNat = base.toNat / 256 * 256 + ea.toNat % 256 ∧
        (s.kindAt uncarried = .device true → s.locate m = .refused (.deviceWithReadEffects uncarried)) ∧
        (s.kindAt uncarried ≠ .device true →
          ∃ crossed : Bool, s.locate m = .next (⟨ea, crossed⟩, s) ∧
            (crossed = true ↔ ea.toNat / 256 ≠ base.toNat / 256)))

/-- Indirect,X: if the zero-page cells z = (b1 + X) mod 256 and (z + 1) mod 256 answer reads with l and h, the address is
word(h, l), with no page crossing. Indirect,Y: if the cells b1 and (b1 + 1) mod 256 answer with l and h, the address is
(word(h, l) + Y) mod 65536, and a page is crossed exactly when its high byte is not h, unless the cell of the base's page
with the address's low byte is a device with read side effects (then refused: R45, in the form of log entry 8). -/
def Obligations.IndirectAddresses : Prop :=
  ∀ (b l h : Byte) (s s₁ s₂ : State),
    (s.read (zext16 (b + s.x)) = .next (l, s₁) → s₁.read (zext16 (b + s.x + 1)) = .next (h, s₂) →
      s.locate (.indirectX b) = .next (⟨word h l, false⟩, s₂)) ∧
    (s.read (zext16 b) = .next (l, s₁) → s₁.read (zext16 (b + 1)) = .next (h, s₂) →
      let ea := word h l + zext16 s.y
      s.locate (.indirectY b) =
        if s.kindAt (word h (lo ea)) = .device true then .refused (.deviceWithReadEffects (word h (lo ea)))
        else .next (⟨ea, decide (hi ea ≠ h)⟩, s₂))

/-- If the two cells answer reads, low byte first, the pointer is the word with the second byte as its high byte. The second
cell is (a + 1) mod 65536 for Read16, (z + 1) mod 256 for Read16ZP, and for Read16Bug the cell of the same page with low
byte (lo(a) + 1) mod 256. When lo(a) is not $FF, Read16Bug(a) is Read16(a); when it is, its high byte comes from the first
cell of the page of a. -/
def Obligations.PointerReads : Prop :=
  (∀ (a : Addr) (l h : Byte) (s s₁ s₂ : State), s.read a = .next (l, s₁) →
    (∀ a' : Addr, a'.toNat = (a.toNat + 1) % 65536 → s₁.read a' = .next (h, s₂) → s.read16 a = .next (word h l, s₂)) ∧
    (∀ a' : Addr, a'.toNat = a.toNat / 256 * 256 + (a.toNat + 1) % 256 → s₁.read a' = .next (h, s₂) →
      s.read16Bug a = .next (word h l, s₂))) ∧
  (∀ (z l h : Byte) (s s₁ s₂ : State) (a a' : Addr), a.toNat = z.toNat → a'.toNat = (z.toNat + 1) % 256 →
    s.read a = .next (l, s₁) → s₁.read a' = .next (h, s₂) → s.read16ZP z = .next (word h l, s₂)) ∧
  (∀ (a : Addr) (s : State), lo a ≠ 0xFF → s.read16Bug a = s.read16 a) ∧
  (∀ (a : Addr) (s : State), lo a = 0xFF → s.read16Bug a = s.readPair a (word (hi a) 0x00))

/-- RAM: a read returns the byte the cell holds and changes nothing, a write stores; ROM: a read returns the image byte, a write
is ignored; a RAM or ROM cell that holds no value faults when read (for ROM the model's inference, log entry 2). Device: a
read answers the host's byte (a free value; one more taken), a write tells the host, memory unchanged. Unmapped: a read
faults, a write is ignored. That the host's byte is Config.deviceRead of the draw counter, and that a write is appended to a
log, is the model's choice (log entry 8); so is the map as a list of regions, in which an address in no region is RAM (log
entry 16). (Devices whose reads have side effects are refused: DeviceReadEffectsAreRefused.) -/
def Obligations.MemoryKinds : Prop :=
  (∀ (s : State) (a : Addr) (b v : Byte),
    (s.kindAt a = .ram → s.write a v = .next { s with mem := Memory.set s.mem a.toNat v }) ∧
    (s.kindAt a = .rom → s.write a v = .next s) ∧
    (s.kindAt a = .unmapped → s.write a v = .next s) ∧
    (s.kindAt a = .device false → s.write a v = .next { s with deviceLog := s.deviceLog ++ [(a.toNat, v)] }) ∧
    ((s.kindAt a = .ram ∨ s.kindAt a = .rom) → s.peek a = some b → s.read a = .next (b, s)) ∧
    ((s.kindAt a = .ram ∨ s.kindAt a = .rom) → s.peek a = none → s.read a = .fault (.readOfUnspecified a)) ∧
    (s.kindAt a = .unmapped → s.read a = .fault (.readOfUnmapped a)) ∧
    (s.kindAt a = .device false →
      s.read a = .next (Config.deviceRead s.draws a, { s with draws := s.draws + 1 }))) ∧
  (∀ (s : State) (a : Addr), (∀ r ∈ s.params.memMap, regionHolds r a.toNat = false) → s.kindAt a = .ram)

/-- If a write of v to a RAM address answers, reading that address answers v with nothing changed, and the byte held at every
other address is as before; a write to a ROM or unmapped address leaves the byte held at every address as before. Fetches
use the same reads, so a store is seen by the next fetch. -/
def Obligations.WriteThenRead : Prop :=
  ∀ (s t : State) (a : Addr) (v : Byte), s.write a v = .next t →
    (s.kindAt a = .ram → t.read a = .next (v, t)) ∧
    (∀ k : Addr, k ≠ a ∨ s.kindAt a ≠ .ram → t.peek k = s.peek k)

/-- For every address of such a cell, a read and a write are refused with deviceWithReadEffects and the address. -/
def Obligations.DeviceReadEffectsAreRefused : Prop :=
  ∀ (s : State) (a : Addr) (v : Byte), s.kindAt a = .device true →
    s.read a = .refused (.deviceWithReadEffects a) ∧ s.write a v = .refused (.deviceWithReadEffects a)

/-- A push of v, where the stack cell can be written, stores v at the address 256 + S and leaves S = (S - 1) mod 256 and nothing
else changed; a pull reads the address 256 + ((S + 1) mod 256) and leaves S there, nothing else changed but the count of
free values. The stack address is always in $0100 to $01FF. With S = $00 a push writes $0100 and leaves S = $FF; with S =
$FF a pull leaves S = $00 and reads $0100. On a RAM cell a pull after a push gives the pushed byte and the old S back. -/
def Obligations.StackPushPull : Prop :=
  ∀ (s : State) (v : Byte),
    (stackAddr s.sp).toNat = 256 + s.sp.toNat ∧
    (s.kindAt (stackAddr s.sp) ≠ .device true →
      s.push v = .next (pushed s v) ∧ (pushed s v).sp.toNat = (s.sp.toNat + 255) % 256) ∧
    (∀ (b : Byte) (s₁ : State) (sp' : Byte), sp'.toNat = (s.sp.toNat + 1) % 256 → s.read (stackAddr sp') = .next (b, s₁) →
      s.pull = .next (b, { s with sp := sp', draws := s₁.draws })) ∧
    (s.sp = 0x00 → stackAddr s.sp = 0x0100 ∧ (pushed s v).sp = 0xFF) ∧
    (∀ (b : Byte) (t : State), s.sp = 0xFF → s.pull = .next (b, t) →
      t.sp = 0x00 ∧ ∃ s₁, s.read 0x0100 = .next (b, s₁)) ∧
    (s.kindAt (stackAddr s.sp) = .ram →
      (pushed s v).pull = .next (v, { pushed s v with sp := s.sp }))

/-- For every memory operand and every source operand: when the address is found, or the byte is read, the state after differs
from the state before at most in the count of free values taken (the model's own field, log entry 7). -/
def Obligations.ReadsChangeOnlyTheDrawCount : Prop :=
  (∀ (m : MemMode) (s t : State) (l : Located), s.locate m = .next (l, t) → t = { s with draws := t.draws }) ∧
  (∀ (r : Source) (s t : State) (b : Byte), s.readSource r = .next (b, t) → t = { s with draws := t.draws })

/-- For every instruction whose operand is not a memory byte it writes or modifies and which is none of PHA, PHP, JSR, BRK (so
every load, compare, logic and arithmetic form, every accumulator and one-byte form, branches, jumps, pulls, RTS, RTI, LAS,
the immediate illegal opcodes, the illegal NOPs, JAM): when exec answers a next state, memory and the log of device writes
are unchanged, so every address holds what it held. -/
def Obligations.NoStoreLeavesMemory : Prop :=
  ∀ (i : Instr) (s t : State), (∀ m : MemMode, i.operand ≠ .write m ∧ i.operand ≠ .modify (.memory m)) →
    i.operation ∉ [.pha, .php, .jsr, .brk] → exec i s = .next t →
    t.mem = s.mem ∧ t.deviceLog = s.deviceLog ∧ ∀ a : Addr, t.peek a = s.peek a

/-- For every instruction with a written or modified memory operand m (STA, STX, STY, SAX, SHA, SHX, SHY, TAS; ASL, LSR, ROL,
ROR, INC, DEC, SLO, RLA, SRE, RRA, ISC, DCP on memory): if the address of m in the starting state is ea and exec answers a
next state, every address other than ea holds what it held. For PHA and PHP every address but the stack cell of S; for JSR
every address but those of S and S - 1; for BRK every address but those of S, S - 1 and S - 2 (modulo 256). -/
def Obligations.StoresChangeOnlyTheirByte : Prop :=
  ∀ (i : Instr) (s t : State), exec i s = .next t →
    (∀ (m : MemMode) (l : Located) (s₁ : State), i.operand = .write m ∨ i.operand = .modify (.memory m) →
      s.locate m = .next (l, s₁) → ∀ a : Addr, a ≠ l.ea → t.peek a = s.peek a) ∧
    (i.operation ∈ [.pha, .php] → ∀ a : Addr, a ≠ stackAddr s.sp → t.peek a = s.peek a) ∧
    (i.operation = .jsr → ∀ a : Addr, a ∉ [stackAddr s.sp, stackAddr (s.sp - 1)] → t.peek a = s.peek a) ∧
    (i.operation = .brk → ∀ a : Addr, a ∉ [stackAddr s.sp, stackAddr (s.sp - 1), stackAddr (s.sp - 2)] →
      t.peek a = s.peek a)

/-- For all bytes a, m and carry c: AddBinary gives (a + m + c) mod 256, carry exactly when the sum is at least 256, V exactly
when the signed sum lies outside -128..127, equally when a and m have the same bit 7 and the result another. SubBinary is
AddBinary of a and the complement of m; it gives (a - m - (1 - c)) mod 256, carry exactly when that difference is not
negative, V exactly when the signed difference lies outside -128..127, equally when a and m differ in bit 7 and the result
differs from a there. -/
def Obligations.BinaryAdditionAndSubtraction : Prop :=
  ∀ (a m : Byte) (c : Bool),
    (let q := addBinary a m c
     q.r.toNat = (a.toNat + m.toNat + c.toNat) % 256 ∧ (q.c = true ↔ 256 ≤ a.toNat + m.toNat + c.toNat) ∧
     (q.v = true ↔ bit a 7 = bit m 7 ∧ bit q.r 7 ≠ bit a 7) ∧
     (q.v = true ↔ ¬ signed8Range (a.toInt + m.toInt + c.toNat))) ∧
    (let q := subBinary a m c
     let diff : Int := (a.toNat : Int) - m.toNat - (1 - c.toNat)
     q = addBinary a (~~~m) c ∧ (q.r.toNat : Int) = diff % 256 ∧ (q.c = true ↔ 0 ≤ diff) ∧
     (q.v = true ↔ bit a 7 ≠ bit m 7 ∧ bit q.r 7 ≠ bit a 7) ∧
     (q.v = true ↔ ¬ signed8Range (a.toInt - m.toInt - (1 - c.toNat))))

/-- For every register byte r and operand byte m: C is set exactly when r >= m as unsigned numbers, Z exactly when they are
equal, N is bit 7 of (r - m) mod 256; V, D, I, every register, memory and all other state are unchanged, and the result does
not depend on the old C or D. -/
def Obligations.CompareRule : Prop :=
  ∀ (r m : Byte) (s : State),
    s.setCompare r m = { s with c := (s.setCompare r m).c, z := (s.setCompare r m).z, n := (s.setCompare r m).n } ∧
    ((s.setCompare r m).c = true ↔ m.toNat ≤ r.toNat) ∧ ((s.setCompare r m).z = true ↔ r = m) ∧
    ((s.setCompare r m).n = true ↔ 128 ≤ (r.toNat + 256 - m.toNat) % 256)

/-- For every byte m and carry c: Asl gives (2m) mod 256 with carry bit 7; Lsr gives m div 2 with carry bit 0, a result below
128; Rol gives (2m) mod 256 + c with carry bit 7; Ror gives m div 2 + 128c with carry bit 0; nine Rol or nine Ror in a row,
each taking the carry of the one before, give m and c back; Ror undoes Rol. -/
def Obligations.ShiftHelpers : Prop :=
  ∀ (m : Byte) (c : Bool),
    (asl m c).1.toNat = m.toNat * 2 % 256 ∧ ((asl m c).2 = true ↔ 128 ≤ m.toNat) ∧
    (lsr m c).1.toNat = m.toNat / 2 ∧ ((lsr m c).2 = true ↔ m.toNat % 2 = 1) ∧ (lsr m c).1.toNat < 128 ∧
    (rol m c).1.toNat = m.toNat * 2 % 256 + c.toNat ∧ ((rol m c).2 = true ↔ 128 ≤ m.toNat) ∧
    (ror m c).1.toNat = m.toNat / 2 + c.toNat * 128 ∧ ((ror m c).2 = true ↔ m.toNat % 2 = 1) ∧
    (fun p : Byte × Bool => rol p.1 p.2)^[9] (m, c) = (m, c) ∧ (fun p : Byte × Bool => ror p.1 p.2)^[9] (m, c) = (m, c) ∧
    ror (rol m c).1 (rol m c).2 = (m, c)

/-- For the choice DecimalMode = nmos (the candidate of G7, log entry 32): for all bytes a, m with both digits at most 9 and
every carry c, the decimal addition gives valid digits whose value is (a + m + c) mod 100 with carry exactly when the
decimal sum is at least 100; the decimal subtraction gives valid digits whose value is (a - m - (1 - c)) mod 100; its flags
N, V, Z, C are those of the binary subtraction for every pair of bytes. -/
def Obligations.NmosDecimalArithmetic : Prop :=
  (∀ (a m : Byte) (c : Bool), validBcd a → validBcd m →
    (let q := decimalResult .nmos .add a m c
     validBcd q.r ∧ bcd q.r = (bcd a + bcd m + c.toNat) % 100 ∧ (q.c = true ↔ 100 ≤ bcd a + bcd m + c.toNat)) ∧
    (let q := decimalResult .nmos .sub a m c
     validBcd q.r ∧ (bcd q.r : Int) = ((bcd a : Int) - bcd m - (1 - c.toNat)) % 100)) ∧
  (∀ (a m : Byte) (c : Bool),
    decimalResult .nmos .sub a m c = { subBinary a m c with r := (decimalResult .nmos .sub a m c).r })

/-- PByte(b) is N*128 + V*64 + 32 + b*16 + D*8 + I*4 + Z*2 + C. SetP(v) loads N, V, D, I, Z, C from bits 7, 6, 3, 2, 1, 0 of v
and changes nothing else; bits 5 and 4 of v do not matter. SetP of a state's own status byte, with either B, changes
nothing. -/
def Obligations.StatusByteLayout : Prop :=
  ∀ (s : State) (b : Bool) (v : Byte),
    (pByte b s).toNat = s.n.toNat * 128 + s.v.toNat * 64 + 32 + b.toNat * 16 + s.d.toNat * 8 + s.i.toNat * 4 +
      s.z.toNat * 2 + s.c.toNat ∧
    s.setP v = { s with n := bit v 7, v := bit v 6, d := bit v 3, i := bit v 2, z := bit v 1, c := bit v 0 } ∧
    s.setP (v ^^^ 0x30) = s.setP v ∧ s.setP (v ^^^ 0x20) = s.setP v ∧ s.setP (v ^^^ 0x10) = s.setP v ∧
    s.setP (pByte b s) = s

/-- For every ADC (adcImm, adcZp, adcZpX, adcAbs, adcAbsX, adcAbsY, adcIndX, adcIndY), every SBC (sbcImm, sbcZp, sbcZpX, sbcAbs,
sbcAbsX, sbcAbsY, sbcIndX, sbcIndY) and, where AdmitMatrixOnly is set, SBC $EB (sbcEB): if the operand byte M is readable,
exec answers the state with A, N, V, Z, C those of AddBinary(A, M, C) resp. SubBinary(A, M, C) when D = 0, and of the
function supplied for the parameter DecimalMode when D = 1 (the model's choice at reset is an uninterpreted function, log
entry 5); PC advanced by the length; nothing else changed but the count of free values that a device read takes. When D = 1
and no function is supplied, the default of the spec, exec is the fault decimalModeUnspecified. -/
def Obligations.AdcAndSbcResult : Prop :=
  ∀ (i : Instr) (r : Source) (s s₁ : State) (m : Byte), s.readSource r = .next (m, s₁) →
    let result (q : ArithResult) : Out State :=
      .next { s with draws := s₁.draws, a := q.r, n := q.n, v := q.v, z := q.z, c := q.c,
                     pc := s.pc + BitVec.ofNat 16 r.length }
    (i.form = ⟨.adc, .read r⟩ →
      (s.d = false → exec i s = result (addBinary s.a m s.c)) ∧
      (∀ g : DecimalMode, s.d = true → s.params.decimalMode = some g → exec i s = result (decimalResult g .add s.a m s.c)) ∧
      (s.d = true → s.params.decimalMode = none → exec i s = .fault .decimalModeUnspecified)) ∧
    (i.form = ⟨.sbc, .read r⟩ ∨ i.form = ⟨.sbcEB, .read r⟩ ∧ s.params.admitMatrixOnly = true →
      (s.d = false → exec i s = result (subBinary s.a m s.c)) ∧
      (∀ g : DecimalMode, s.d = true → s.params.decimalMode = some g → exec i s = result (decimalResult g .sub s.a m s.c)) ∧
      (s.d = true → s.params.decimalMode = none → exec i s = .fault .decimalModeUnspecified))

/-- For every AND, ORA and EOR (each in the forms Imm, Zp, ZpX, Abs, AbsX, AbsY, IndX, IndY): if the operand byte M is readable,
exec answers the state with A = A & M, A | M, A ^ M, N its bit 7, Z whether it is zero, PC advanced by the length, nothing
else changed but the count of free values. -/
def Obligations.LogicResult : Prop :=
  ∀ (i : Instr) (r : Source) (s s₁ : State) (m : Byte), s.readSource r = .next (m, s₁) →
    let result (v : Byte) : Out State :=
      .next { s with draws := s₁.draws, a := v, n := bit v 7, z := decide (v = 0), pc := s.pc + BitVec.ofNat 16 r.length }
    (i.form = ⟨.and, .read r⟩ → exec i s = result (s.a &&& m)) ∧
    (i.form = ⟨.ora, .read r⟩ → exec i s = result (s.a ||| m)) ∧
    (i.form = ⟨.eor, .read r⟩ → exec i s = result (s.a ^^^ m))

/-- For every LDA (8 forms), LDX (ldxImm, ldxZp, ldxZpY, ldxAbs, ldxAbsY), LDY (ldyImm, ldyZp, ldyZpX, ldyAbs, ldyAbsX) and LAX
(laxZp, laxZpY, laxAbs, laxAbsY, laxIndX, laxIndY): if the operand byte M is readable, exec answers the state with the
register (for LAX both A and X) holding M, N its bit 7, Z whether it is zero, PC advanced by the length, nothing else
changed but the count of free values. -/
def Obligations.LoadResult : Prop :=
  ∀ (i : Instr) (r : Source) (s s₁ : State) (m : Byte), s.readSource r = .next (m, s₁) →
    let base : State :=
      { s with draws := s₁.draws, n := bit m 7, z := decide (m = 0), pc := s.pc + BitVec.ofNat 16 r.length }
    (i.form = ⟨.lda, .read r⟩ → exec i s = .next { base with a := m }) ∧
    (i.form = ⟨.ldx, .read r⟩ → exec i s = .next { base with x := m }) ∧
    (i.form = ⟨.ldy, .read r⟩ → exec i s = .next { base with y := m }) ∧
    (i.form = ⟨.lax, .read r⟩ → exec i s = .next { base with a := m, x := m })

/-- For every CMP (8 forms), CPX and CPY (Imm, Zp, Abs): if the operand byte M is readable, exec answers the state with C
whether the register is at least M, Z whether they are equal, N bit 7 of their difference. For BIT (bitZp, bitAbs): Z
whether A & M is zero, N bit 7 of M, V bit 6 of M. PC is advanced by the length and nothing else changes but the count of
free values. -/
def Obligations.CompareAndBitResult : Prop :=
  ∀ (i : Instr) (r : Source) (s s₁ : State) (m : Byte), s.readSource r = .next (m, s₁) →
    let base : State := { s with draws := s₁.draws, pc := s.pc + BitVec.ofNat 16 r.length }
    let compared (reg : Byte) : Out State :=
      .next { base with c := decide (m.toNat ≤ reg.toNat), z := decide (reg = m), n := bit (reg - m) 7 }
    (i.form = ⟨.cmp, .read r⟩ → exec i s = compared s.a) ∧
    (i.form = ⟨.cpx, .read r⟩ → exec i s = compared s.x) ∧
    (i.form = ⟨.cpy, .read r⟩ → exec i s = compared s.y) ∧
    (i.form = ⟨.bit, .read r⟩ →
      exec i s = .next { base with z := decide (s.a &&& m = 0), n := bit m 7, v := bit m 6 })

/-- For every STA (staZp, staZpX, staAbs, staAbsX, staAbsY, staIndX, staIndY), STX (stxZp, stxZpY, stxAbs), STY (styZp, styZpX,
styAbs) and SAX (saxZp, saxZpY, saxAbs, saxIndX): if the effective address ea is found and is no device with read side
effects, exec answers the state with A, X, Y or A & X written to ea as the kind of that cell has it, PC advanced by the
length, nothing else changed but the count of free values that reading a pointer takes. -/
def Obligations.StoreResult : Prop :=
  ∀ (i : Instr) (m : MemMode) (s s₁ : State) (l : Located), s.locate m = .next (l, s₁) → s.kindAt l.ea ≠ .device true →
    let result (v : Byte) : Out State :=
      .next { stored s l.ea v with draws := s₁.draws, pc := s.pc + BitVec.ofNat 16 m.length }
    (i.form = ⟨.sta, .write m⟩ → exec i s = result s.a) ∧
    (i.form = ⟨.stx, .write m⟩ → exec i s = result s.x) ∧
    (i.form = ⟨.sty, .write m⟩ → exec i s = result s.y) ∧
    (i.form = ⟨.sax, .write m⟩ → exec i s = result (s.a &&& s.x))

/-- In every state, exec of aslAcc, lsrAcc, rolAcc, rorAcc answers the state with A and C those of Asl(A), Lsr(A), Rol(A, C),
Ror(A, C), N bit 7 of the result, Z whether it is zero, PC + 1, and nothing else changed; after LSR N is 0; after ROR N is
the old C. -/
def Obligations.ShiftsOfTheAccumulator : Prop :=
  ∀ s : State,
    let result (q : Byte × Bool) : Out State :=
      .next { s with a := q.1, c := q.2, n := bit q.1 7, z := decide (q.1 = 0), pc := s.pc + 1 }
    exec .aslAcc s = result (asl s.a s.c) ∧ exec .lsrAcc s = result (lsr s.a s.c) ∧
    exec .rolAcc s = result (rol s.a s.c) ∧ exec .rorAcc s = result (ror s.a s.c) ∧
    bit (lsr s.a s.c).1 7 = false ∧ bit (ror s.a s.c).1 7 = s.c

/-- For every ASL, LSR, ROL, ROR, INC and DEC with a memory operand (each in the forms Zp, ZpX, Abs, AbsX): if the effective
address ea is found and its byte b readable, exec answers the state with the new byte written to ea (the shift of b; b + 1
or b - 1 modulo 256), N and Z of that byte, C the bit shifted out (unchanged for INC and DEC), PC advanced by the length,
and nothing else changed but the count of free values. -/
def Obligations.ModifyResult : Prop :=
  ∀ (i : Instr) (m : MemMode) (s s₁ s₂ : State) (l : Located) (b : Byte),
    s.locate m = .next (l, s₁) → s₁.read l.ea = .next (b, s₂) →
    let result (v : Byte) (c : Bool) : Out State :=
      .next { stored s l.ea v with draws := s₂.draws, c := c, n := bit v 7, z := decide (v = 0),
                                   pc := s.pc + BitVec.ofNat 16 m.length }
    (i.form = ⟨.asl, .modify (.memory m)⟩ → exec i s = result (asl b s.c).1 (asl b s.c).2) ∧
    (i.form = ⟨.lsr, .modify (.memory m)⟩ → exec i s = result (lsr b s.c).1 (lsr b s.c).2) ∧
    (i.form = ⟨.rol, .modify (.memory m)⟩ → exec i s = result (rol b s.c).1 (rol b s.c).2) ∧
    (i.form = ⟨.ror, .modify (.memory m)⟩ → exec i s = result (ror b s.c).1 (ror b s.c).2) ∧
    (i.form = ⟨.inc, .modify (.memory m)⟩ → exec i s = result (b + 1) s.c) ∧
    (i.form = ⟨.dec, .modify (.memory m)⟩ → exec i s = result (b - 1) s.c)

/-- For every SLO, RLA and SRE (each in the forms Zp, ZpX, Abs, AbsX, AbsY, IndX, IndY): if the effective address ea is found
and its byte b readable, exec answers the state with the shifted byte r written to ea, C the bit shifted out, A = A | r, A &
r, A ^ r, N and Z of the new A, PC advanced by the length, and nothing else changed but the count of free values. -/
def Obligations.ShiftThenLogicResult : Prop :=
  ∀ (i : Instr) (m : MemMode) (s s₁ s₂ : State) (l : Located) (b : Byte),
    s.locate m = .next (l, s₁) → s₁.read l.ea = .next (b, s₂) →
    let result (r : Byte) (c : Bool) (a : Byte) : Out State :=
      .next { stored s l.ea r with draws := s₂.draws, c := c, a := a, n := bit a 7, z := decide (a = 0),
                                   pc := s.pc + BitVec.ofNat 16 m.length }
    (i.form = ⟨.slo, .modify (.memory m)⟩ → exec i s = result (asl b s.c).1 (asl b s.c).2 (s.a ||| (asl b s.c).1)) ∧
    (i.form = ⟨.rla, .modify (.memory m)⟩ → exec i s = result (rol b s.c).1 (rol b s.c).2 (s.a &&& (rol b s.c).1)) ∧
    (i.form = ⟨.sre, .modify (.memory m)⟩ → exec i s = result (lsr b s.c).1 (lsr b s.c).2 (s.a ^^^ (lsr b s.c).1))

/-- For every RRA, ISC and DCP (each in the forms Zp, ZpX, Abs, AbsX, AbsY, IndX, IndY): if the effective address ea is found
and its byte b readable, exec answers a state with ea written: RRA writes Ror(b, C) and adds it to A with the carry the
rotation gave; ISC writes b + 1 and subtracts it from A with the incoming C; both binary when D = 0, by the function
supplied for the parameter DecimalMode when D = 1 (log entry 5), and the fault decimalModeUnspecified when D = 1 and none is
supplied; DCP writes b - 1 and compares A with it. PC is advanced by the length; nothing else changes but the count of free
values. -/
def Obligations.RraIscDcpResult : Prop :=
  ∀ (i : Instr) (m : MemMode) (s s₁ s₂ : State) (l : Located) (b : Byte),
    s.locate m = .next (l, s₁) → s₁.read l.ea = .next (b, s₂) →
    let base (r : Byte) : State :=
      { stored s l.ea r with draws := s₂.draws, pc := s.pc + BitVec.ofNat 16 m.length }
    let result (r : Byte) (q : ArithResult) : Out State :=
      .next { base r with a := q.r, n := q.n, v := q.v, z := q.z, c := q.c }
    (i.form = ⟨.rra, .modify (.memory m)⟩ →
      let r := (ror b s.c).1
      let c := (ror b s.c).2
      (s.d = false → exec i s = result r (addBinary s.a r c)) ∧
      (∀ g : DecimalMode, s.d = true → s.params.decimalMode = some g → exec i s = result r (decimalResult g .add s.a r c)) ∧
      (s.d = true → s.params.decimalMode = none → exec i s = .fault .decimalModeUnspecified)) ∧
    (i.form = ⟨.isc, .modify (.memory m)⟩ →
      let r := b + 1
      (s.d = false → exec i s = result r (subBinary s.a r s.c)) ∧
      (∀ g : DecimalMode, s.d = true → s.params.decimalMode = some g →
        exec i s = result r (decimalResult g .sub s.a r s.c)) ∧
      (s.d = true → s.params.decimalMode = none → exec i s = .fault .decimalModeUnspecified)) ∧
    (i.form = ⟨.dcp, .modify (.memory m)⟩ →
      let r := b - 1
      exec i s = .next { base r with c := decide (r.toNat ≤ s.a.toNat), z := decide (s.a = r), n := bit (s.a - r) 7 })

/-- In every state and for every immediate byte M: both ANC opcodes ($0B, $2B) leave A = A & M with N and C its bit 7 and Z
whether it is zero; ALR ($4B) leaves A = (A & M) div 2, C = bit 0 of A & M, N = 0, Z whether A is zero; SBX ($CB) leaves X =
((A & X) - M) mod 256, C whether A & X is at least M, Z whether they are equal, N bit 7 of the difference. Each has length 2
and takes 2 cycles, PC + 2; nothing else changes. -/
def Obligations.ImmediateIllegalResult : Prop :=
  ∀ (m : Byte) (s : State),
    encode (.anc0B m) = [0x0B, m] ∧ encode (.anc2B m) = [0x2B, m] ∧ encode (.alr m) = [0x4B, m] ∧ encode (.sbx m) = [0xCB, m] ∧
    (∀ i ∈ [Instr.anc0B m, .anc2B m, .alr m, .sbx m], i.length = 2 ∧ cyclesOf i s = 2) ∧
    (∀ i ∈ [Instr.anc0B m, .anc2B m],
      exec i s = .next { s with a := s.a &&& m, n := bit (s.a &&& m) 7, z := decide (s.a &&& m = 0),
                                c := bit (s.a &&& m) 7, pc := s.pc + 2 }) ∧
    (∃ r : Byte, r.toNat = (s.a &&& m).toNat / 2 ∧
      exec (.alr m) s = .next { s with a := r, n := false, z := decide (r = 0), c := bit (s.a &&& m) 0, pc := s.pc + 2 }) ∧
    exec (.sbx m) s = .next { s with x := (s.a &&& s.x) - m, c := decide (m.toNat ≤ (s.a &&& s.x).toNat),
                                     z := decide (s.a &&& s.x = m), n := bit ((s.a &&& s.x) - m) 7, pc := s.pc + 2 }

/-- For every immediate byte M, with t = A & M. D = 0: exec answers the state with A = t div 2 + 128*C, N the old C, Z whether A
is zero, V = t[6] ^ t[7], PC + 2, C = t[6] or C = t[7] (the first when the parameter ArrCarry is bit6, the second when it is
bit7, undetermined when it is draw), and nothing else changed but the count of free values. D = 1: exec answers the state
with A, N, V, Z, C what the function supplied for the parameter DecimalMode has for ARR (an uninterpreted function at reset,
or G17; log entries 5 and 32), and the fault decimalModeUnspecified when none is supplied. -/
def Obligations.ArrResult : Prop :=
  ∀ (m : Byte) (s : State),
    let t := s.a &&& m
    (s.d = false → ∃ (r : Byte) (c : Bool) (k : Nat), r.toNat = t.toNat / 2 + s.c.toNat * 128 ∧ (c = bit t 6 ∨ c = bit t 7) ∧
      (s.params.arrCarry = .bit6 → c = bit t 6) ∧ (s.params.arrCarry = .bit7 → c = bit t 7) ∧
      exec (.arr m) s = .next { s with draws := k, a := r, n := s.c, z := decide (r = 0), v := bit t 6 ^^ bit t 7, c := c,
                                       pc := s.pc + 2 }) ∧
    (∀ g : DecimalMode, s.d = true → s.params.decimalMode = some g →
      let q := decimalArr g s.a m s.c
      exec (.arr m) s = .next { s with a := q.r, n := q.n, v := q.v, z := q.z, c := q.c, pc := s.pc + 2 }) ∧
    (s.d = true → s.params.decimalMode = none → exec (.arr m) s = .fault .decimalModeUnspecified)

/-- For every SHA (shaAbsY, shaIndY; v = A & X), SHX (v = X), SHY (v = Y) and TAS (v = A & X): if the effective address ea is
found without crossing a page and is no device with read side effects, exec answers a state in which a byte w is written to
ea, where w is v & H1 or v with H1 = (hi(ea) + 1) mod 256; w is v & H1 when RDY_never_low is set, and w is v when hi(ea) =
$FE. TAS also sets S = A & X. No flag changes; PC is advanced by the length; nothing else changes but the count of free
values. -/
def Obligations.UnstableStoreResult : Prop :=
  ∀ (i : Instr) (m : MemMode) (s s₁ : State) (l : Located),
    s.locate m = .next (l, s₁) → l.crossed = false → s.kindAt l.ea ≠ .device true →
    let result (v sp : Byte) : Prop := ∃ (w : Byte) (k : Nat),
      (w = v &&& (hi l.ea + 1) ∨ w = v) ∧ (s.params.rdyNeverLow = true → w = v &&& (hi l.ea + 1)) ∧
      (hi l.ea = 0xFE → w = v) ∧
      exec i s = .next { stored s l.ea w with draws := k, sp := sp, pc := s.pc + BitVec.ofNat 16 m.length }
    (i.form = ⟨.sha, .write m⟩ → result (s.a &&& s.x) s.sp) ∧
    (i.form = ⟨.shx, .write m⟩ → result s.x s.sp) ∧
    (i.form = ⟨.shy, .write m⟩ → result s.y s.sp) ∧
    (i.form = ⟨.tas, .write m⟩ → result (s.a &&& s.x) (s.a &&& s.x))

/-- For LAS $4400,Y (las): if the effective address is found without crossing a page and its byte b readable, exec answers the
state with A = X = S = b & S, N its bit 7, Z whether it is zero, PC + 3, and nothing else changed but the count of free
values. -/
def Obligations.LasResult : Prop :=
  ∀ (addr : Addr) (s s₁ s₂ : State) (l : Located) (b : Byte),
    s.locate (.absoluteY addr) = .next (l, s₁) → l.crossed = false → s₁.read l.ea = .next (b, s₂) →
    let r := b &&& s.sp
    exec (.las addr) s =
      .next { s with draws := s₂.draws, a := r, x := r, sp := r, n := bit r 7, z := decide (r = 0), pc := s.pc + 3 }

/-- For each of shaAbsY, shaIndY, shx, shy, tas and las with the memory operand m: if its address is found and a page is
crossed, exec refuses with unstablePageCross, and no next state exists. -/
def Obligations.PageCrossingIsRefused : Prop :=
  ∀ (i : Instr) (m : MemMode) (s s₁ : State) (l : Located), i.operation ∈ [.sha, .shx, .shy, .tas, .las] →
    i.operand = .write m ∨ i.operand = .read (.memory m) → s.locate m = .next (l, s₁) → l.crossed = true →
    exec i s = .refused .unstablePageCross

/-- In every state: TAX, TAY, TXA, TYA, TSX copy a register and set N and Z from it; TXS copies X to S and changes no flag; INX,
DEX, INY, DEY add or subtract 1 modulo 256 and set N and Z from the result. Each is its one opcode byte ($AA $A8 $8A $98 $BA
$9A $E8 $CA $C8 $88), Implied, length 1, 2 cycles; PC + 1; nothing else changes. -/
def Obligations.TransfersAndCounts : Prop :=
  oneByteRow .tax 0xAA 2 ∧ oneByteRow .tay 0xA8 2 ∧ oneByteRow .txa 0x8A 2 ∧ oneByteRow .tya 0x98 2 ∧
  oneByteRow .tsx 0xBA 2 ∧ oneByteRow .txs 0x9A 2 ∧ oneByteRow .inx 0xE8 2 ∧ oneByteRow .dex 0xCA 2 ∧
  oneByteRow .iny 0xC8 2 ∧ oneByteRow .dey 0x88 2 ∧
  ∀ s : State,
    let base (v : Byte) : State := { s with n := bit v 7, z := decide (v = 0), pc := s.pc + 1 }
    exec .tax s = .next { base s.a with x := s.a } ∧ exec .tay s = .next { base s.a with y := s.a } ∧
    exec .txa s = .next { base s.x with a := s.x } ∧ exec .tya s = .next { base s.y with a := s.y } ∧
    exec .tsx s = .next { base s.sp with x := s.sp } ∧ exec .txs s = .next { s with sp := s.x, pc := s.pc + 1 } ∧
    exec .inx s = .next { base (s.x + 1) with x := s.x + 1 } ∧ exec .dex s = .next { base (s.x - 1) with x := s.x - 1 } ∧
    exec .iny s = .next { base (s.y + 1) with y := s.y + 1 } ∧ exec .dey s = .next { base (s.y - 1) with y := s.y - 1 }

/-- In every state: CLC, SEC, CLD, SED, CLI, SEI, CLV leave C = 0, C = 1, D = 0, D = 1, I = 0, I = 1, V = 0 and NOP leaves every
flag; each is its one opcode byte ($18 $38 $D8 $F8 $58 $78 $B8 $EA), Implied, length 1, 2 cycles; PC + 1; nothing else
changes. -/
def Obligations.FlagInstructionsAndNop : Prop :=
  oneByteRow .clc 0x18 2 ∧ oneByteRow .sec 0x38 2 ∧ oneByteRow .cld 0xD8 2 ∧ oneByteRow .sed 0xF8 2 ∧
  oneByteRow .cli 0x58 2 ∧ oneByteRow .sei 0x78 2 ∧ oneByteRow .clv 0xB8 2 ∧ oneByteRow .nop 0xEA 2 ∧
  ∀ s : State,
    exec .clc s = .next { s with c := false, pc := s.pc + 1 } ∧ exec .sec s = .next { s with c := true, pc := s.pc + 1 } ∧
    exec .cld s = .next { s with d := false, pc := s.pc + 1 } ∧ exec .sed s = .next { s with d := true, pc := s.pc + 1 } ∧
    exec .cli s = .next { s with i := false, pc := s.pc + 1 } ∧ exec .sei s = .next { s with i := true, pc := s.pc + 1 } ∧
    exec .clv s = .next { s with v := false, pc := s.pc + 1 } ∧ exec .nop s = .next { s with pc := s.pc + 1 }

/-- PHA ($48) and PHP ($08), Implied, length 1, 3 cycles: in every state whose stack cell can be written, exec answers the state
after Push(A), resp. Push(PByte(1)) (bits 4 and 5 set), with PC + 1; no flag and no other register changes. With S = $00 the
byte goes to $0100 and S becomes $FF. -/
def Obligations.PushInstructions : Prop :=
  oneByteRow .pha 0x48 3 ∧ oneByteRow .php 0x08 3 ∧
  ∀ s : State, stackWritable s 1 →
    exec .pha s = .next { pushed s s.a with pc := s.pc + 1 } ∧
    exec .php s = .next { pushed s (pByte true s) with pc := s.pc + 1 } ∧
    bit (pByte true s) 5 = true ∧ bit (pByte true s) 4 = true ∧
    (s.sp = 0x00 → stackAddr s.sp = 0x0100 ∧ (pushed s s.a).sp = 0xFF)

/-- PLA ($68) and PLP ($28), Implied, length 1, 4 cycles: in every state where the cell at $0100 + ((S + 1) mod 256) is readable
with byte b, exec answers the state with S + 1, PC + 1 and, for PLA, A = b, N its bit 7, Z whether it is zero; for PLP, N,
V, D, I, Z, C = bits 7, 6, 3, 2, 1, 0 of b; nothing else changes but the count of free values. -/
def Obligations.PullInstructions : Prop :=
  oneByteRow .pla 0x68 4 ∧ oneByteRow .plp 0x28 4 ∧
  ∀ (s s₁ : State) (b : Byte), s.read (stackAddr (s.sp + 1)) = .next (b, s₁) →
    let base : State := { s with draws := s₁.draws, sp := s.sp + 1, pc := s.pc + 1 }
    exec .pla s = .next { base with a := b, n := bit b 7, z := decide (b = 0) } ∧
    exec .plp s = .next { base with n := bit b 7, v := bit b 6, d := bit b 3, i := bit b 2, z := bit b 1, c := bit b 0 } ∧
    (s.sp = 0xFF → s.sp + 1 = 0x00 ∧ stackAddr (s.sp + 1) = 0x0100)

/-- For BCC, BCS, BEQ, BNE, BMI, BPL, BVC, BVS (opcodes $90 $B0 $F0 $D0 $30 $10 $50 $70, two bytes, the second the offset), in
every state: with next = (PC + 2) mod 65536 and target = next plus the signed offset modulo 65536, exec answers the state
with PC = target when the condition (C=0, C=1, Z=1, Z=0, N=1, N=0, V=0, V=1) holds and PC = next when not; nothing else
changes. The branch costs 2 cycles if not taken, 3 if taken and target is in the page of next, else 4. Offset $00 makes
taken and not taken the same; $FE branches to the branch itself; $80 is -128. -/
def Obligations.BranchResult : Prop :=
  ∀ (offset : Byte) (s : State),
    let next := s.pc + 2
    let target := next + BitVec.ofInt 16 offset.toInt
    let row (i : Instr) (op : Byte) (cond : Bool) : Prop :=
      encode i = [op, offset] ∧ exec i s = .next { s with pc := if cond then target else next } ∧
      cyclesOf i s = if cond then (if hi target = hi next then 3 else 4) else 2
    row (.bcc offset) 0x90 (!s.c) ∧ row (.bcs offset) 0xB0 s.c ∧ row (.beq offset) 0xF0 s.z ∧ row (.bne offset) 0xD0 (!s.z) ∧
    row (.bmi offset) 0x30 s.n ∧ row (.bpl offset) 0x10 (!s.n) ∧ row (.bvc offset) 0x50 (!s.v) ∧ row (.bvs offset) 0x70 s.v ∧
    (offset = 0x00 → target = next) ∧ (offset = 0xFE → target = s.pc) ∧ (offset = 0x80 → target = next - 128)

/-- JMP Absolute (4C lo hi, 3 cycles) leaves PC the operand word, in every state. JMP Indirect (6C lo hi, 5 cycles): if the cell
of the operand word and the cell of the same page with low byte (lo + 1) mod 256 answer reads with l and h, PC is word(h,
l). JSR (20 lo hi, 6 cycles), where the two stack cells can be written: pushes the high then the low byte of (PC + 2) mod
65536, the address of its own last byte, S two less, PC the operand word. No flag and no other register changes. -/
def Obligations.JumpResult : Prop :=
  ∀ (addr : Addr) (s : State),
    encode (.jmpAbs addr) = [0x4C, lo addr, hi addr] ∧ encode (.jmpInd addr) = [0x6C, lo addr, hi addr] ∧
    encode (.jsr addr) = [0x20, lo addr, hi addr] ∧
    cyclesOf (.jmpAbs addr) s = 3 ∧ cyclesOf (.jmpInd addr) s = 5 ∧ cyclesOf (.jsr addr) s = 6 ∧
    exec (.jmpAbs addr) s = .next { s with pc := addr } ∧
    (∀ (l h : Byte) (s₁ s₂ : State), s.read addr = .next (l, s₁) → s₁.read (word (hi addr) (lo addr + 1)) = .next (h, s₂) →
      exec (.jmpInd addr) s = .next { s with draws := s₂.draws, pc := word h l }) ∧
    (stackWritable s 2 →
      exec (.jsr addr) s = .next { pushed (pushed s (hi (s.pc + 2))) (lo (s.pc + 2)) with pc := addr } ∧
      (pushed (pushed s (hi (s.pc + 2))) (lo (s.pc + 2))).sp = s.sp - 2)

/-- RTS ($60, 6 cycles): if the two stack cells above S answer reads with l and h, exec answers the state with S + 2 and PC =
(word(h, l) + 1) mod 65536, flags unchanged. RTI ($40, 6 cycles): if the three stack cells above S answer with p, l, h, exec
answers the state with S + 3, N, V, D, I, Z, C = bits 7, 6, 3, 2, 1, 0 of p, and PC = word(h, l). S wraps modulo 256;
nothing else changes but the count of free values. -/
def Obligations.ReturnResult : Prop :=
  oneByteRow .rts 0x60 6 ∧ oneByteRow .rti 0x40 6 ∧
  (∀ (s s₁ s₂ : State) (l h : Byte),
    s.read (stackAddr (s.sp + 1)) = .next (l, s₁) → s₁.read (stackAddr (s.sp + 2)) = .next (h, s₂) →
    exec .rts s = .next { s with draws := s₂.draws, sp := s.sp + 2, pc := word h l + 1 }) ∧
  (∀ (s s₁ s₂ s₃ : State) (p l h : Byte), s.read (stackAddr (s.sp + 1)) = .next (p, s₁) →
    s₁.read (stackAddr (s.sp + 2)) = .next (l, s₂) → s₂.read (stackAddr (s.sp + 3)) = .next (h, s₃) →
    exec .rti s = .next { s with draws := s₃.draws, sp := s.sp + 3, n := bit p 7, v := bit p 6, d := bit p 3, i := bit p 2,
                                 z := bit p 1, c := bit p 0, pc := word h l })

/-- BRK ($00, LEN 1, 7 cycles), whatever I holds, where the three stack cells can be written and the cells $FFFE and $FFFF are
readable afterwards with l and h: exec answers the state after the pushes of hi(PC + 2), lo(PC + 2) and PByte(1) (the old I
in it, bits 4 and 5 set), with I = 1 and PC = word(h, l); S is three less modulo 256; N, V, D, Z, C, A, X, Y and all else
are unchanged but the count of free values. -/
def Obligations.BrkTakesTheTrap : Prop :=
  oneByteRow .brk 0x00 7 ∧
  ∀ (s s₁ s₂ : State) (l h : Byte), stackWritable s 3 →
    let t := pushed (pushed (pushed s (hi (s.pc + 2))) (lo (s.pc + 2))) (pByte true s)
    t.read 0xFFFE = .next (l, s₁) → s₁.read 0xFFFF = .next (h, s₂) →
    exec .brk s = .next { t with draws := s₂.draws, i := true, pc := word h l } ∧ t.sp = s.sp - 3 ∧
    bit (pByte true s) 4 = true ∧ bit (pByte true s) 5 = true ∧ bit (pByte true s) 2 = s.i

/-- For every state whose two stack cells at S and S - 1 (modulo 256) are RAM and every target: exec of JSR answers a next state
t, and exec of RTS in any state that has the memory, the memory map and the stack pointer of t answers that state with S as
before the JSR and PC three past the JSR, nothing else changed. -/
def Obligations.JsrThenRtsReturns : Prop :=
  ∀ (addr : Addr) (s : State), s.kindAt (stackAddr s.sp) = .ram → s.kindAt (stackAddr (s.sp - 1)) = .ram →
    ∃ t : State, exec (.jsr addr) s = .next t ∧
      ∀ u : State, u.mem = t.mem → u.params = t.params → u.sp = t.sp →
        exec .rts u = .next { u with sp := s.sp, pc := s.pc + 3 }

/-- For every state whose three stack cells are RAM: if exec of BRK answers a next state t, then exec of RTI in any state that
has the memory, the memory map and the stack pointer of t answers that state with N, V, D, I, Z, C and S as before the BRK
and PC = PC of the BRK + 2, nothing else changed. -/
def Obligations.BrkThenRtiReturns : Prop :=
  ∀ s t : State, (∀ k < 3, s.kindAt (stackAddr (s.sp - BitVec.ofNat 8 k)) = .ram) → exec .brk s = .next t →
    ∀ u : State, u.mem = t.mem → u.params = t.params → u.sp = t.sp →
      exec .rti u = .next { u with sp := s.sp, n := s.n, v := s.v, d := s.d, i := s.i, z := s.z, c := s.c, pc := s.pc + 2 }

/-- Let b be the state after the host's inputs are sampled at the boundary. If RESET is due, the step is the reset sequence;
else if the machine is jammed, the step is the fault jammed (stuck); else if an NMI is pending, the NMI entry, whatever I
holds; else if the IRQ line is asserted and I = 0, the IRQ entry; else, so also when the line is asserted and I = 1, an
instruction is fetched and run. -/
def Obligations.EventPriority : Prop :=
  ∀ s : State,
    let b := s.sampleInputs
    (b.resetPending = true → step s = b.takeReset) ∧
    (b.resetPending = false → b.jammed = true → step s = .fault .jammed) ∧
    (b.resetPending = false → b.jammed = false → b.nmiPending = true → step s = b.takeNmi) ∧
    (b.resetPending = false → b.jammed = false → b.nmiPending = false → b.irqLine = true → b.i = false → step s = b.takeIrq) ∧
    (b.resetPending = false → b.jammed = false → b.nmiPending = false → b.irqLine = false ∨ b.i = true →
      step s = andThen b.fetch fun f => andThen (exec f.1 f.2) fun t => .next (t.addCycles (cyclesOf f.1 f.2)))

/-- Let b be the state after the inputs are sampled, with neither RESET due nor the machine jammed, its three stack cells
writable. An entry through a vector pushes hi(PC), lo(PC) and PByte(0) (bit 4 clear, bit 5 set), sets I and loads PC from
the vector, 7 cycles, A, X, Y, D and all else unchanged. If an NMI is pending: the step is the entry through $FFFA/$FFFB
with the pending bit cleared. If none is pending, the IRQ line is asserted and I = 0: the step is the entry through
$FFFE/$FFFF. In each case the vector cells are readable after the pushes, with l and h. -/
def Obligations.InterruptEntry : Prop :=
  ∀ (s s₁ s₂ : State) (l h : Byte),
    let b := s.sampleInputs
    let t := pushed (pushed (pushed b (hi b.pc)) (lo b.pc)) (pByte false b)
    b.resetPending = false → b.jammed = false → stackWritable b 3 →
    (b.nmiPending = true → t.read 0xFFFA = .next (l, s₁) → s₁.read 0xFFFB = .next (h, s₂) →
      step s = .next { t with draws := s₂.draws, i := true, nmiPending := false, pc := word h l, cycles := b.cycles + 7 }) ∧
    (b.nmiPending = false → b.irqLine = true → b.i = false → t.read 0xFFFE = .next (l, s₁) → s₁.read 0xFFFF = .next (h, s₂) →
      step s = .next { t with draws := s₂.draws, i := true, pc := word h l, cycles := b.cycles + 7 }) ∧
    bit (pByte false b) 4 = false ∧ bit (pByte false b) 5 = true ∧ t.sp = b.sp - 3

/-- Let b be the state after the inputs are sampled, RESET due. If $FFFC and $FFFD are RAM or ROM cells holding l and h, the
step answers a next state with I = 1, PC = word(h, l), not jammed, no NMI and no RESET pending, memory, the memory map and
the log of device writes unchanged. That no NMI is pending after it is the table of reset values; that the RESET request is
a latch which the step clears is the model's choice (log entries 4 and 9). Nothing is said of A, X, Y, S, N, V, Z, C, D,
which hold no defined value. -/
def Obligations.ResetEntry : Prop :=
  ∀ (s : State) (l h : Byte),
    let b := s.sampleInputs
    b.resetPending = true → holds b 0xFFFC l → holds b 0xFFFD h →
    ∃ t : State, step s = .next t ∧ t.i = true ∧ t.pc = word h l ∧ t.jammed = false ∧ t.nmiPending = false ∧
      t.resetPending = false ∧ t.mem = s.mem ∧ t.params = s.params ∧ t.deviceLog = s.deviceLog

/-- A JAM instruction is exactly one whose opcode byte is one of the twelve; in every state exec of it answers the state with
the jammed condition set and PC, registers, flags, memory and all else as they were. A step of a jammed machine at a
boundary where no RESET is due is the fault jammed (stuck: no next state), whatever NMI and IRQ do; where a RESET is due, a
next state of the step is not jammed. That a JAM answers a state, PC among what it keeps, and that the stop is the step
after it, is the model's reading (log entry 10): the spec does not say what PC holds afterwards. -/
def Obligations.JamSticksUntilReset : Prop :=
  (∀ i : Instr, i.operation = .jam ↔ i.opcode ∈ jams) ∧
  (∀ (i : Instr) (s : State), i.operation = .jam → exec i s = .next { s with jammed := true }) ∧
  (∀ s : State, s.jammed = true → s.sampleInputs.resetPending = false → step s = .fault .jammed) ∧
  (∀ s t : State, s.sampleInputs.resetPending = true → step s = .next t → t.jammed = false)

/-- The 27 illegal NOPs are exactly the instructions with those opcode bytes; with AdmitMatrixOnly set, exec answers the state
with PC advanced by the length of G15 and nothing else changed, in every state for one without a memory operand; for one
with a memory operand, whose address is found, when the cell there is no device with read side effects, and when it is, exec
is refused, naming the cell; when the address is refused (an un-carried device cell), so is exec. Without AdmitMatrixOnly
exec is refused with undetailedOpcode. SBC $EB without it is refused; with it, exec is that of SBC #imm $E9 for the same
byte, 2 bytes, 2 cycles. ANE ($8B) and LAX $AB are refused with undetailedOpcode in every state, whatever the parameter
holds. -/
def Obligations.MatrixOnlyTreatment : Prop :=
  (∀ i : Instr, i.operation = .illegalNop ↔ i.opcode ∈ illegalNops.map Prod.fst) ∧
  (∀ (i : Instr) (s : State), i.operation = .illegalNop →
    (s.params.admitMatrixOnly = false → exec i s = .refused .undetailedOpcode) ∧
    (s.params.admitMatrixOnly = true →
      ∃ len : Nat, (i.opcode, len) ∈ illegalNops ∧
        ((∀ m : MemMode, i.operand ≠ .read (.memory m)) → exec i s = .next { s with pc := s.pc + BitVec.ofNat 16 len }) ∧
        (∀ m : MemMode, i.operand = .read (.memory m) →
          (∀ (l : Located) (s₁ : State), s.locate m = .next (l, s₁) →
            (s.kindAt l.ea ≠ .device true → exec i s = .next { s with pc := s.pc + BitVec.ofNat 16 len }) ∧
            (s.kindAt l.ea = .device true → exec i s = .refused (.deviceWithReadEffects l.ea))) ∧
          (∀ why : Refusal, s.locate m = .refused why → exec i s = .refused why)))) ∧
  (∀ (m : Byte) (s : State),
    encode (.sbcEB m) = [0xEB, m] ∧ cyclesOf (.sbcEB m) s = 2 ∧
    (s.params.admitMatrixOnly = false → exec (.sbcEB m) s = .refused .undetailedOpcode) ∧
    (s.params.admitMatrixOnly = true → exec (.sbcEB m) s = exec (.sbcImm m) s)) ∧
  Instr.opcode .ane = 0x8B ∧ Instr.opcode .laxAB = 0xAB ∧
  (∀ s : State, exec .ane s = .refused .undetailedOpcode ∧ exec .laxAB s = .refused .undetailedOpcode)

/-- For every instruction and state, when exec answers a next state: A is unchanged unless the instruction is one that writes A
(ADC, AND, EOR, ORA, SBC, LDA, PLA, TXA, TYA, an accumulator form of ASL, LSR, ROL, ROR, SLO, RLA, SRE, RRA, LAX, ISC, ANC,
ALR, ARR, LAS, SBC $EB); X unless it is LDX, TAX, TSX, INX, DEX, LAX, SBX, LAS; Y unless it is LDY, TAY, INY, DEY; S unless
it is TXS, LAS, TAS or a push or pull (PHA, PHP, PLA, PLP, JSR, RTS, RTI, BRK). -/
def Obligations.RegistersWrittenOnlyByTheirInstructions : Prop :=
  ∀ (i : Instr) (s t : State), exec i s = .next t →
    (writesA i.form = false → t.a = s.a) ∧ (writesX i.operation = false → t.x = s.x) ∧
    (writesY i.operation = false → t.y = s.y) ∧ (writesS i.operation = false → t.sp = s.sp)

/-- For every instruction and state, when exec answers a next state: C, V, D, I are unchanged unless the instruction is one the
spec lists as writing that flag; N and Z are unchanged under the instructions that list neither (branches, flag
instructions, jumps, JSR, RTS, BRK, NOPs, TXS, PHA, PHP, every store, JAM); the jammed condition changes only under JAM; the
IRQ line, the NMI latch and the RESET request never change. Nor do three things of the model's own form: the parameters (log
entry 1), the list of coming inputs (log entry 9) and the informational cycle count, to which the step adds (log entry 14). -/
def Obligations.FlagsWrittenOnlyByTheirInstructions : Prop :=
  ∀ (i : Instr) (s t : State), exec i s = .next t →
    (writesC i.operation = false → t.c = s.c) ∧ (writesV i.operation = false → t.v = s.v) ∧
    (writesD i.operation = false → t.d = s.d) ∧ (writesI i.operation = false → t.i = s.i) ∧
    (keepsNZ i.operation = true → t.n = s.n ∧ t.z = s.z) ∧ (i.operation ≠ .jam → t.jammed = s.jammed) ∧
    t.irqLine = s.irqLine ∧ t.nmiPending = s.nmiPending ∧ t.resetPending = s.resetPending ∧ t.inputs = s.inputs ∧
    t.cycles = s.cycles ∧ t.params = s.params

/-- For every instruction but ADC, SBC, RRA, ISC, ARR, SBC $EB and the two that push the status byte (PHP, BRK), every state and
every value of D: an instruction that writes D (CLD, SED, PLP, RTI) gives the same answer whatever D was; every other gives
the same answer but for D itself, which the next state keeps. -/
def Obligations.DecimalFlagIsIgnoredElsewhere : Prop :=
  ∀ (i : Instr) (s : State) (d : Bool), readsD i.operation = false →
    exec i { s with d := d } = if writesD i.operation then exec i s else answerWithD d (exec i s)

/-- For every state s and every step that answers a next state s' (an instruction, a RESET, an NMI or an IRQ entry): the
parameters, the memory map among them, are unchanged, and every address that is not RAM holds what it held. -/
def Obligations.RomAndParametersNeverChange : Prop :=
  ∀ s s' : State, step s = .next s' →
    s'.params = s.params ∧ ∀ a : Addr, s.kindAt a ≠ .ram → s'.peek a = s.peek a

/-- For every state s with State.Inv s (memory in canonical form: addresses strictly rising and below 65536; every entry of the
log of device writes lies in a device cell without read side effects): if a step answers next s', then State.Inv s'. Not
only for runs from reset. -/
def Obligations.EveryStepKeepsTheInvariant : Prop :=
  ∀ s s' : State, s.Inv = true → step s = .next s' → s'.Inv = true

/-- State.reset satisfies State.Inv; I = 1, no NMI, IRQ or RESET pending, not jammed. (These are the values the spec gives;
nothing is said of the values the model chose, log entry 3.) -/
def Obligations.InvariantAtReset : Prop :=
  State.reset.Inv = true ∧ State.reset.i = true ∧ State.reset.nmiPending = false ∧ State.reset.irqLine = false ∧
  State.reset.resetPending = false ∧ State.reset.jammed = false

/-- For every state in which each of the 65536 addresses is RAM and holds a byte, with AdmitMatrixOnly set (log entry 6) and,
where D = 1 and the instruction is ADC, SBC, RRA, ISC, ARR or SBC $EB, a function supplied for DecimalMode (log entry 5):
exec answers a next state for every instruction but ANE and LAX $AB; for SHA, SHX, SHY, TAS and LAS when the address of the
operand is found without crossing a page. A JAM answers the jammed state (log entry 10). Three of these are the model's
choices: the defaults of the spec refuse the matrix-only opcodes, fault on decimal arithmetic and call a JAM stuck. There is
no access fault, no alignment fault, no illegal-instruction trap and no stack overflow. -/
def Obligations.RamMachineMakesProgress : Prop :=
  ∀ (i : Instr) (s : State), (∀ a : Addr, s.kindAt a = .ram ∧ ∃ b : Byte, s.peek a = some b) →
    s.params.admitMatrixOnly = true → i.operation ∉ [.ane, .laxAB] →
    (s.d = true → i.operation ∈ [.adc, .sbc, .rra, .isc, .arr, .sbcEB] → s.params.decimalMode ≠ none) →
    (i.operation ∈ [.sha, .shx, .shy, .tas, .las] →
      ∀ (m : MemMode) (l : Located) (s₁ : State), i.operand = .write m ∨ i.operand = .read (.memory m) →
        s.locate m = .next (l, s₁) → l.crossed = false) →
    ∃ t : State, exec i s = .next t

/-- If the host asserts something at the coming boundary, sampling sets the IRQ line to its level, the NMI latch if an edge
arrived (and never clears it), the RESET request if RESET is asserted, and takes that input off the list; with no input left
it changes nothing (the default oracle, log entry 9). Nothing else changes. -/
def Obligations.InputsAreSampledAtTheBoundary : Prop :=
  ∀ (s : State) (b : BoundaryInput) (rest : List BoundaryInput),
    (s.inputs = [] → s.sampleInputs = s) ∧
    (s.inputs = b :: rest →
      s.sampleInputs = { s with irqLine := b.irqLine, nmiPending := s.nmiPending || b.nmiEdge,
                                resetPending := s.resetPending || b.reset, inputs := rest })
end

