-- ==== Sys2Proof/Laws/Bits.lean ====
section
/-!
SUPPORT. The laws of the bit-field helpers: a word and its two bytes, and a byte as a number below 256, over which a proof can go
case by case.
-/

namespace Sys2Proof.Machine

@[simp] theorem hi_word (h l : Byte) : hi (word h l) = h := BitVec.extractLsb'_append_eq_left

@[simp] theorem lo_word (h l : Byte) : lo (word h l) = l := BitVec.extractLsb'_append_eq_right

@[simp] theorem word_hi_lo (a : Addr) : word (hi a) (lo a) = a := by
  unfold word hi lo
  exact (BitVec.extractLsb'_append_extractLsb'_eq_extractLsb' (by rfl)).trans (by simp)

theorem word_toNat (h l : Byte) : (word h l).toNat = h.toNat * 256 + l.toNat := by
  have := l.isLt
  simp only [word, BitVec.toNat_append, Nat.shiftLeft_eq]
  rw [Nat.mul_comm h.toNat, ← Nat.two_pow_add_eq_or_of_lt this]

theorem hi_toNat (a : Addr) : (hi a).toNat = a.toNat / 256 := by
  have := a.isLt
  simp only [hi, BitVec.extractLsb'_toNat, Nat.shiftRight_eq_div_pow]
  omega

theorem lo_toNat (a : Addr) : (lo a).toNat = a.toNat % 256 := by
  simp only [lo, BitVec.extractLsb'_toNat, Nat.shiftRight_eq_div_pow]
  omega

theorem zext16_toNat (b : Byte) : (zext16 b).toNat = b.toNat := by
  have := b.isLt
  simp only [zext16, BitVec.toNat_setWidth]
  omega

theorem stackAddr_toNat (sp : Byte) : (stackAddr sp).toNat = 256 + sp.toNat := by
  rw [stackAddr, word_toNat]
  rfl

/-- Different stack pointers address different stack cells. -/
theorem stackAddr_inj {p q : Byte} (h : stackAddr p = stackAddr q) : p = q := by
  have := congrArg BitVec.toNat h
  rw [stackAddr_toNat, stackAddr_toNat] at this
  exact BitVec.eq_of_toNat_eq (by omega)

/-- A byte is the numeral of a number below 256: `interval_cases` then goes over its values. -/
theorem byte_num (b : Byte) : ∃ n < 256, b = BitVec.ofNat 8 n := ⟨b.toNat, b.isLt, by simp⟩

end Sys2Proof.Machine
end

