-- ==== Sys2Proof/Laws/Memory.lean ====
section
/-!
SUPPORT. The laws of memory: a read after a write, every other cell, and the canonical form, which every memory operation keeps.
-/

namespace Sys2Proof.Machine

theorem Memory.get?_set_same (m : Memory) (k : Nat) (v : Byte) : Memory.get? (Memory.set m k v) k = some v := by
  induction m with
  | nil => simp [Memory.set, Memory.get?]
  | cons cell rest ih =>
    obtain ⟨a, b⟩ := cell
    unfold Memory.set
    split
    · simp [Memory.get?]
    · split
      · simp [Memory.get?]
      · next h₁ h₂ => simp [Memory.get?, h₁, h₂, ih]

theorem Memory.get?_set_other (m : Memory) {k j : Nat} (v : Byte) (h : j ≠ k) :
    Memory.get? (Memory.set m k v) j = Memory.get? m j := by
  induction m with
  | nil => simp [Memory.set, Memory.get?, h]
  | cons cell rest ih =>
    obtain ⟨a, b⟩ := cell
    unfold Memory.set
    split
    · next h₁ => subst h₁; simp [Memory.get?, h]
    · split
      · next h₁ h₂ =>
        by_cases h₃ : j < k
        · have : j < a := by omega
          have : j ≠ a := by omega
          simp [Memory.get?, *]
        · simp [Memory.get?, h, h₃]
      · next h₁ h₂ => simp [Memory.get?, ih]

/-- A lower bound on the addresses may be lowered. -/
theorem Memory.wfFrom_mono {m : Memory} {k j : Nat} (h : j ≤ k) (hm : Memory.wfFrom k m = true) :
    Memory.wfFrom j m = true := by
  cases m with
  | nil => rfl
  | cons cell rest =>
    obtain ⟨a, b⟩ := cell
    simp [Memory.wfFrom] at hm ⊢
    exact ⟨⟨by omega, hm.1.2⟩, hm.2⟩

theorem Memory.wfFrom_set {m : Memory} {k j : Nat} (v : Byte) (hj : j ≤ k) (hk : k < 65536)
    (hm : Memory.wfFrom j m = true) : Memory.wfFrom j (Memory.set m k v) = true := by
  induction m generalizing j with
  | nil => simp [Memory.set, Memory.wfFrom, hj, hk]
  | cons cell rest ih =>
    obtain ⟨a, b⟩ := cell
    simp [Memory.wfFrom] at hm
    unfold Memory.set
    split
    · next h => subst h; simp [Memory.wfFrom, hj, hk, hm.2]
    · split
      · next h₁ h₂ =>
        simp [Memory.wfFrom, hj, hk, hm.1.2, hm.2]
        omega
      · next h₁ h₂ => simp [Memory.wfFrom, hm.1, ih (j := a + 1) (by omega) hm.2]

/-- Storing a byte at an address keeps the canonical form. -/
theorem Memory.wf_set {m : Memory} (a : Addr) (v : Byte) (hm : Memory.wf m = true) :
    Memory.wf (Memory.set m a.toNat v) = true :=
  Memory.wfFrom_set v (Nat.zero_le _) (by have := a.isLt; omega) hm

/-- Loading bytes keeps the canonical form. -/
theorem Memory.wf_load {m : Memory} (bytes : List Byte) (a : Addr) (hm : Memory.wf m = true) :
    Memory.wf (Memory.load m a bytes) = true := by
  induction bytes generalizing m a with
  | nil => exact hm
  | cons b rest ih => exact ih _ (Memory.wf_set a b hm)

/-- The memory right after reset is in canonical form. -/
theorem Memory.wf_reset : Memory.wf State.reset.mem = true := rfl

end Sys2Proof.Machine
end

