-- ==== Sys2Proof/Laws/State.lean ====
section
/-!
SUPPORT. One lemma for each field and each update of the state, so that no proof unfolds a record update.
-/

namespace Sys2Proof.Machine

variable (s : State)

@[simp] theorem State.setA_a (b : Byte) : (s.setA b).a = b := rfl
@[simp] theorem State.setA_x (b : Byte) : (s.setA b).x = s.x := rfl
@[simp] theorem State.setA_y (b : Byte) : (s.setA b).y = s.y := rfl
@[simp] theorem State.setA_sp (b : Byte) : (s.setA b).sp = s.sp := rfl
@[simp] theorem State.setA_pc (b : Byte) : (s.setA b).pc = s.pc := rfl
@[simp] theorem State.setA_n (b : Byte) : (s.setA b).n = s.n := rfl
@[simp] theorem State.setA_v (b : Byte) : (s.setA b).v = s.v := rfl
@[simp] theorem State.setA_d (b : Byte) : (s.setA b).d = s.d := rfl
@[simp] theorem State.setA_i (b : Byte) : (s.setA b).i = s.i := rfl
@[simp] theorem State.setA_z (b : Byte) : (s.setA b).z = s.z := rfl
@[simp] theorem State.setA_c (b : Byte) : (s.setA b).c = s.c := rfl
@[simp] theorem State.setA_jammed (b : Byte) : (s.setA b).jammed = s.jammed := rfl
@[simp] theorem State.setA_irqLine (b : Byte) : (s.setA b).irqLine = s.irqLine := rfl
@[simp] theorem State.setA_nmiPending (b : Byte) : (s.setA b).nmiPending = s.nmiPending := rfl
@[simp] theorem State.setA_resetPending (b : Byte) : (s.setA b).resetPending = s.resetPending := rfl
@[simp] theorem State.setA_mem (b : Byte) : (s.setA b).mem = s.mem := rfl
@[simp] theorem State.setA_inputs (b : Byte) : (s.setA b).inputs = s.inputs := rfl
@[simp] theorem State.setA_deviceLog (b : Byte) : (s.setA b).deviceLog = s.deviceLog := rfl
@[simp] theorem State.setA_draws (b : Byte) : (s.setA b).draws = s.draws := rfl
@[simp] theorem State.setA_cycles (b : Byte) : (s.setA b).cycles = s.cycles := rfl
@[simp] theorem State.setA_params (b : Byte) : (s.setA b).params = s.params := rfl

@[simp] theorem State.setX_a (b : Byte) : (s.setX b).a = s.a := rfl
@[simp] theorem State.setX_x (b : Byte) : (s.setX b).x = b := rfl
@[simp] theorem State.setX_y (b : Byte) : (s.setX b).y = s.y := rfl
@[simp] theorem State.setX_sp (b : Byte) : (s.setX b).sp = s.sp := rfl
@[simp] theorem State.setX_pc (b : Byte) : (s.setX b).pc = s.pc := rfl
@[simp] theorem State.setX_n (b : Byte) : (s.setX b).n = s.n := rfl
@[simp] theorem State.setX_v (b : Byte) : (s.setX b).v = s.v := rfl
@[simp] theorem State.setX_d (b : Byte) : (s.setX b).d = s.d := rfl
@[simp] theorem State.setX_i (b : Byte) : (s.setX b).i = s.i := rfl
@[simp] theorem State.setX_z (b : Byte) : (s.setX b).z = s.z := rfl
@[simp] theorem State.setX_c (b : Byte) : (s.setX b).c = s.c := rfl
@[simp] theorem State.setX_jammed (b : Byte) : (s.setX b).jammed = s.jammed := rfl
@[simp] theorem State.setX_irqLine (b : Byte) : (s.setX b).irqLine = s.irqLine := rfl
@[simp] theorem State.setX_nmiPending (b : Byte) : (s.setX b).nmiPending = s.nmiPending := rfl
@[simp] theorem State.setX_resetPending (b : Byte) : (s.setX b).resetPending = s.resetPending := rfl
@[simp] theorem State.setX_mem (b : Byte) : (s.setX b).mem = s.mem := rfl
@[simp] theorem State.setX_inputs (b : Byte) : (s.setX b).inputs = s.inputs := rfl
@[simp] theorem State.setX_deviceLog (b : Byte) : (s.setX b).deviceLog = s.deviceLog := rfl
@[simp] theorem State.setX_draws (b : Byte) : (s.setX b).draws = s.draws := rfl
@[simp] theorem State.setX_cycles (b : Byte) : (s.setX b).cycles = s.cycles := rfl
@[simp] theorem State.setX_params (b : Byte) : (s.setX b).params = s.params := rfl

@[simp] theorem State.setY_a (b : Byte) : (s.setY b).a = s.a := rfl
@[simp] theorem State.setY_x (b : Byte) : (s.setY b).x = s.x := rfl
@[simp] theorem State.setY_y (b : Byte) : (s.setY b).y = b := rfl
@[simp] theorem State.setY_sp (b : Byte) : (s.setY b).sp = s.sp := rfl
@[simp] theorem State.setY_pc (b : Byte) : (s.setY b).pc = s.pc := rfl
@[simp] theorem State.setY_n (b : Byte) : (s.setY b).n = s.n := rfl
@[simp] theorem State.setY_v (b : Byte) : (s.setY b).v = s.v := rfl
@[simp] theorem State.setY_d (b : Byte) : (s.setY b).d = s.d := rfl
@[simp] theorem State.setY_i (b : Byte) : (s.setY b).i = s.i := rfl
@[simp] theorem State.setY_z (b : Byte) : (s.setY b).z = s.z := rfl
@[simp] theorem State.setY_c (b : Byte) : (s.setY b).c = s.c := rfl
@[simp] theorem State.setY_jammed (b : Byte) : (s.setY b).jammed = s.jammed := rfl
@[simp] theorem State.setY_irqLine (b : Byte) : (s.setY b).irqLine = s.irqLine := rfl
@[simp] theorem State.setY_nmiPending (b : Byte) : (s.setY b).nmiPending = s.nmiPending := rfl
@[simp] theorem State.setY_resetPending (b : Byte) : (s.setY b).resetPending = s.resetPending := rfl
@[simp] theorem State.setY_mem (b : Byte) : (s.setY b).mem = s.mem := rfl
@[simp] theorem State.setY_inputs (b : Byte) : (s.setY b).inputs = s.inputs := rfl
@[simp] theorem State.setY_deviceLog (b : Byte) : (s.setY b).deviceLog = s.deviceLog := rfl
@[simp] theorem State.setY_draws (b : Byte) : (s.setY b).draws = s.draws := rfl
@[simp] theorem State.setY_cycles (b : Byte) : (s.setY b).cycles = s.cycles := rfl
@[simp] theorem State.setY_params (b : Byte) : (s.setY b).params = s.params := rfl

@[simp] theorem State.setSp_a (b : Byte) : (s.setSp b).a = s.a := rfl
@[simp] theorem State.setSp_x (b : Byte) : (s.setSp b).x = s.x := rfl
@[simp] theorem State.setSp_y (b : Byte) : (s.setSp b).y = s.y := rfl
@[simp] theorem State.setSp_sp (b : Byte) : (s.setSp b).sp = b := rfl
@[simp] theorem State.setSp_pc (b : Byte) : (s.setSp b).pc = s.pc := rfl
@[simp] theorem State.setSp_n (b : Byte) : (s.setSp b).n = s.n := rfl
@[simp] theorem State.setSp_v (b : Byte) : (s.setSp b).v = s.v := rfl
@[simp] theorem State.setSp_d (b : Byte) : (s.setSp b).d = s.d := rfl
@[simp] theorem State.setSp_i (b : Byte) : (s.setSp b).i = s.i := rfl
@[simp] theorem State.setSp_z (b : Byte) : (s.setSp b).z = s.z := rfl
@[simp] theorem State.setSp_c (b : Byte) : (s.setSp b).c = s.c := rfl
@[simp] theorem State.setSp_jammed (b : Byte) : (s.setSp b).jammed = s.jammed := rfl
@[simp] theorem State.setSp_irqLine (b : Byte) : (s.setSp b).irqLine = s.irqLine := rfl
@[simp] theorem State.setSp_nmiPending (b : Byte) : (s.setSp b).nmiPending = s.nmiPending := rfl
@[simp] theorem State.setSp_resetPending (b : Byte) : (s.setSp b).resetPending = s.resetPending := rfl
@[simp] theorem State.setSp_mem (b : Byte) : (s.setSp b).mem = s.mem := rfl
@[simp] theorem State.setSp_inputs (b : Byte) : (s.setSp b).inputs = s.inputs := rfl
@[simp] theorem State.setSp_deviceLog (b : Byte) : (s.setSp b).deviceLog = s.deviceLog := rfl
@[simp] theorem State.setSp_draws (b : Byte) : (s.setSp b).draws = s.draws := rfl
@[simp] theorem State.setSp_cycles (b : Byte) : (s.setSp b).cycles = s.cycles := rfl
@[simp] theorem State.setSp_params (b : Byte) : (s.setSp b).params = s.params := rfl

@[simp] theorem State.setPc_a (w : Addr) : (s.setPc w).a = s.a := rfl
@[simp] theorem State.setPc_x (w : Addr) : (s.setPc w).x = s.x := rfl
@[simp] theorem State.setPc_y (w : Addr) : (s.setPc w).y = s.y := rfl
@[simp] theorem State.setPc_sp (w : Addr) : (s.setPc w).sp = s.sp := rfl
@[simp] theorem State.setPc_pc (w : Addr) : (s.setPc w).pc = w := rfl
@[simp] theorem State.setPc_n (w : Addr) : (s.setPc w).n = s.n := rfl
@[simp] theorem State.setPc_v (w : Addr) : (s.setPc w).v = s.v := rfl
@[simp] theorem State.setPc_d (w : Addr) : (s.setPc w).d = s.d := rfl
@[simp] theorem State.setPc_i (w : Addr) : (s.setPc w).i = s.i := rfl
@[simp] theorem State.setPc_z (w : Addr) : (s.setPc w).z = s.z := rfl
@[simp] theorem State.setPc_c (w : Addr) : (s.setPc w).c = s.c := rfl
@[simp] theorem State.setPc_jammed (w : Addr) : (s.setPc w).jammed = s.jammed := rfl
@[simp] theorem State.setPc_irqLine (w : Addr) : (s.setPc w).irqLine = s.irqLine := rfl
@[simp] theorem State.setPc_nmiPending (w : Addr) : (s.setPc w).nmiPending = s.nmiPending := rfl
@[simp] theorem State.setPc_resetPending (w : Addr) : (s.setPc w).resetPending = s.resetPending := rfl
@[simp] theorem State.setPc_mem (w : Addr) : (s.setPc w).mem = s.mem := rfl
@[simp] theorem State.setPc_inputs (w : Addr) : (s.setPc w).inputs = s.inputs := rfl
@[simp] theorem State.setPc_deviceLog (w : Addr) : (s.setPc w).deviceLog = s.deviceLog := rfl
@[simp] theorem State.setPc_draws (w : Addr) : (s.setPc w).draws = s.draws := rfl
@[simp] theorem State.setPc_cycles (w : Addr) : (s.setPc w).cycles = s.cycles := rfl
@[simp] theorem State.setPc_params (w : Addr) : (s.setPc w).params = s.params := rfl

@[simp] theorem State.setV_a (b : Bool) : (s.setV b).a = s.a := rfl
@[simp] theorem State.setV_x (b : Bool) : (s.setV b).x = s.x := rfl
@[simp] theorem State.setV_y (b : Bool) : (s.setV b).y = s.y := rfl
@[simp] theorem State.setV_sp (b : Bool) : (s.setV b).sp = s.sp := rfl
@[simp] theorem State.setV_pc (b : Bool) : (s.setV b).pc = s.pc := rfl
@[simp] theorem State.setV_n (b : Bool) : (s.setV b).n = s.n := rfl
@[simp] theorem State.setV_v (b : Bool) : (s.setV b).v = b := rfl
@[simp] theorem State.setV_d (b : Bool) : (s.setV b).d = s.d := rfl
@[simp] theorem State.setV_i (b : Bool) : (s.setV b).i = s.i := rfl
@[simp] theorem State.setV_z (b : Bool) : (s.setV b).z = s.z := rfl
@[simp] theorem State.setV_c (b : Bool) : (s.setV b).c = s.c := rfl
@[simp] theorem State.setV_jammed (b : Bool) : (s.setV b).jammed = s.jammed := rfl
@[simp] theorem State.setV_irqLine (b : Bool) : (s.setV b).irqLine = s.irqLine := rfl
@[simp] theorem State.setV_nmiPending (b : Bool) : (s.setV b).nmiPending = s.nmiPending := rfl
@[simp] theorem State.setV_resetPending (b : Bool) : (s.setV b).resetPending = s.resetPending := rfl
@[simp] theorem State.setV_mem (b : Bool) : (s.setV b).mem = s.mem := rfl
@[simp] theorem State.setV_inputs (b : Bool) : (s.setV b).inputs = s.inputs := rfl
@[simp] theorem State.setV_deviceLog (b : Bool) : (s.setV b).deviceLog = s.deviceLog := rfl
@[simp] theorem State.setV_draws (b : Bool) : (s.setV b).draws = s.draws := rfl
@[simp] theorem State.setV_cycles (b : Bool) : (s.setV b).cycles = s.cycles := rfl
@[simp] theorem State.setV_params (b : Bool) : (s.setV b).params = s.params := rfl

@[simp] theorem State.setD_a (b : Bool) : (s.setD b).a = s.a := rfl
@[simp] theorem State.setD_x (b : Bool) : (s.setD b).x = s.x := rfl
@[simp] theorem State.setD_y (b : Bool) : (s.setD b).y = s.y := rfl
@[simp] theorem State.setD_sp (b : Bool) : (s.setD b).sp = s.sp := rfl
@[simp] theorem State.setD_pc (b : Bool) : (s.setD b).pc = s.pc := rfl
@[simp] theorem State.setD_n (b : Bool) : (s.setD b).n = s.n := rfl
@[simp] theorem State.setD_v (b : Bool) : (s.setD b).v = s.v := rfl
@[simp] theorem State.setD_d (b : Bool) : (s.setD b).d = b := rfl
@[simp] theorem State.setD_i (b : Bool) : (s.setD b).i = s.i := rfl
@[simp] theorem State.setD_z (b : Bool) : (s.setD b).z = s.z := rfl
@[simp] theorem State.setD_c (b : Bool) : (s.setD b).c = s.c := rfl
@[simp] theorem State.setD_jammed (b : Bool) : (s.setD b).jammed = s.jammed := rfl
@[simp] theorem State.setD_irqLine (b : Bool) : (s.setD b).irqLine = s.irqLine := rfl
@[simp] theorem State.setD_nmiPending (b : Bool) : (s.setD b).nmiPending = s.nmiPending := rfl
@[simp] theorem State.setD_resetPending (b : Bool) : (s.setD b).resetPending = s.resetPending := rfl
@[simp] theorem State.setD_mem (b : Bool) : (s.setD b).mem = s.mem := rfl
@[simp] theorem State.setD_inputs (b : Bool) : (s.setD b).inputs = s.inputs := rfl
@[simp] theorem State.setD_deviceLog (b : Bool) : (s.setD b).deviceLog = s.deviceLog := rfl
@[simp] theorem State.setD_draws (b : Bool) : (s.setD b).draws = s.draws := rfl
@[simp] theorem State.setD_cycles (b : Bool) : (s.setD b).cycles = s.cycles := rfl
@[simp] theorem State.setD_params (b : Bool) : (s.setD b).params = s.params := rfl

@[simp] theorem State.setI_a (b : Bool) : (s.setI b).a = s.a := rfl
@[simp] theorem State.setI_x (b : Bool) : (s.setI b).x = s.x := rfl
@[simp] theorem State.setI_y (b : Bool) : (s.setI b).y = s.y := rfl
@[simp] theorem State.setI_sp (b : Bool) : (s.setI b).sp = s.sp := rfl
@[simp] theorem State.setI_pc (b : Bool) : (s.setI b).pc = s.pc := rfl
@[simp] theorem State.setI_n (b : Bool) : (s.setI b).n = s.n := rfl
@[simp] theorem State.setI_v (b : Bool) : (s.setI b).v = s.v := rfl
@[simp] theorem State.setI_d (b : Bool) : (s.setI b).d = s.d := rfl
@[simp] theorem State.setI_i (b : Bool) : (s.setI b).i = b := rfl
@[simp] theorem State.setI_z (b : Bool) : (s.setI b).z = s.z := rfl
@[simp] theorem State.setI_c (b : Bool) : (s.setI b).c = s.c := rfl
@[simp] theorem State.setI_jammed (b : Bool) : (s.setI b).jammed = s.jammed := rfl
@[simp] theorem State.setI_irqLine (b : Bool) : (s.setI b).irqLine = s.irqLine := rfl
@[simp] theorem State.setI_nmiPending (b : Bool) : (s.setI b).nmiPending = s.nmiPending := rfl
@[simp] theorem State.setI_resetPending (b : Bool) : (s.setI b).resetPending = s.resetPending := rfl
@[simp] theorem State.setI_mem (b : Bool) : (s.setI b).mem = s.mem := rfl
@[simp] theorem State.setI_inputs (b : Bool) : (s.setI b).inputs = s.inputs := rfl
@[simp] theorem State.setI_deviceLog (b : Bool) : (s.setI b).deviceLog = s.deviceLog := rfl
@[simp] theorem State.setI_draws (b : Bool) : (s.setI b).draws = s.draws := rfl
@[simp] theorem State.setI_cycles (b : Bool) : (s.setI b).cycles = s.cycles := rfl
@[simp] theorem State.setI_params (b : Bool) : (s.setI b).params = s.params := rfl

@[simp] theorem State.setC_a (b : Bool) : (s.setC b).a = s.a := rfl
@[simp] theorem State.setC_x (b : Bool) : (s.setC b).x = s.x := rfl
@[simp] theorem State.setC_y (b : Bool) : (s.setC b).y = s.y := rfl
@[simp] theorem State.setC_sp (b : Bool) : (s.setC b).sp = s.sp := rfl
@[simp] theorem State.setC_pc (b : Bool) : (s.setC b).pc = s.pc := rfl
@[simp] theorem State.setC_n (b : Bool) : (s.setC b).n = s.n := rfl
@[simp] theorem State.setC_v (b : Bool) : (s.setC b).v = s.v := rfl
@[simp] theorem State.setC_d (b : Bool) : (s.setC b).d = s.d := rfl
@[simp] theorem State.setC_i (b : Bool) : (s.setC b).i = s.i := rfl
@[simp] theorem State.setC_z (b : Bool) : (s.setC b).z = s.z := rfl
@[simp] theorem State.setC_c (b : Bool) : (s.setC b).c = b := rfl
@[simp] theorem State.setC_jammed (b : Bool) : (s.setC b).jammed = s.jammed := rfl
@[simp] theorem State.setC_irqLine (b : Bool) : (s.setC b).irqLine = s.irqLine := rfl
@[simp] theorem State.setC_nmiPending (b : Bool) : (s.setC b).nmiPending = s.nmiPending := rfl
@[simp] theorem State.setC_resetPending (b : Bool) : (s.setC b).resetPending = s.resetPending := rfl
@[simp] theorem State.setC_mem (b : Bool) : (s.setC b).mem = s.mem := rfl
@[simp] theorem State.setC_inputs (b : Bool) : (s.setC b).inputs = s.inputs := rfl
@[simp] theorem State.setC_deviceLog (b : Bool) : (s.setC b).deviceLog = s.deviceLog := rfl
@[simp] theorem State.setC_draws (b : Bool) : (s.setC b).draws = s.draws := rfl
@[simp] theorem State.setC_cycles (b : Bool) : (s.setC b).cycles = s.cycles := rfl
@[simp] theorem State.setC_params (b : Bool) : (s.setC b).params = s.params := rfl

@[simp] theorem State.setJammed_a : (s.setJammed).a = s.a := rfl
@[simp] theorem State.setJammed_x : (s.setJammed).x = s.x := rfl
@[simp] theorem State.setJammed_y : (s.setJammed).y = s.y := rfl
@[simp] theorem State.setJammed_sp : (s.setJammed).sp = s.sp := rfl
@[simp] theorem State.setJammed_pc : (s.setJammed).pc = s.pc := rfl
@[simp] theorem State.setJammed_n : (s.setJammed).n = s.n := rfl
@[simp] theorem State.setJammed_v : (s.setJammed).v = s.v := rfl
@[simp] theorem State.setJammed_d : (s.setJammed).d = s.d := rfl
@[simp] theorem State.setJammed_i : (s.setJammed).i = s.i := rfl
@[simp] theorem State.setJammed_z : (s.setJammed).z = s.z := rfl
@[simp] theorem State.setJammed_c : (s.setJammed).c = s.c := rfl
@[simp] theorem State.setJammed_jammed : (s.setJammed).jammed = true := rfl
@[simp] theorem State.setJammed_irqLine : (s.setJammed).irqLine = s.irqLine := rfl
@[simp] theorem State.setJammed_nmiPending : (s.setJammed).nmiPending = s.nmiPending := rfl
@[simp] theorem State.setJammed_resetPending : (s.setJammed).resetPending = s.resetPending := rfl
@[simp] theorem State.setJammed_mem : (s.setJammed).mem = s.mem := rfl
@[simp] theorem State.setJammed_inputs : (s.setJammed).inputs = s.inputs := rfl
@[simp] theorem State.setJammed_deviceLog : (s.setJammed).deviceLog = s.deviceLog := rfl
@[simp] theorem State.setJammed_draws : (s.setJammed).draws = s.draws := rfl
@[simp] theorem State.setJammed_cycles : (s.setJammed).cycles = s.cycles := rfl
@[simp] theorem State.setJammed_params : (s.setJammed).params = s.params := rfl

@[simp] theorem State.setMem_a (m : Memory) : (s.setMem m).a = s.a := rfl
@[simp] theorem State.setMem_x (m : Memory) : (s.setMem m).x = s.x := rfl
@[simp] theorem State.setMem_y (m : Memory) : (s.setMem m).y = s.y := rfl
@[simp] theorem State.setMem_sp (m : Memory) : (s.setMem m).sp = s.sp := rfl
@[simp] theorem State.setMem_pc (m : Memory) : (s.setMem m).pc = s.pc := rfl
@[simp] theorem State.setMem_n (m : Memory) : (s.setMem m).n = s.n := rfl
@[simp] theorem State.setMem_v (m : Memory) : (s.setMem m).v = s.v := rfl
@[simp] theorem State.setMem_d (m : Memory) : (s.setMem m).d = s.d := rfl
@[simp] theorem State.setMem_i (m : Memory) : (s.setMem m).i = s.i := rfl
@[simp] theorem State.setMem_z (m : Memory) : (s.setMem m).z = s.z := rfl
@[simp] theorem State.setMem_c (m : Memory) : (s.setMem m).c = s.c := rfl
@[simp] theorem State.setMem_jammed (m : Memory) : (s.setMem m).jammed = s.jammed := rfl
@[simp] theorem State.setMem_irqLine (m : Memory) : (s.setMem m).irqLine = s.irqLine := rfl
@[simp] theorem State.setMem_nmiPending (m : Memory) : (s.setMem m).nmiPending = s.nmiPending := rfl
@[simp] theorem State.setMem_resetPending (m : Memory) : (s.setMem m).resetPending = s.resetPending := rfl
@[simp] theorem State.setMem_mem (m : Memory) : (s.setMem m).mem = m := rfl
@[simp] theorem State.setMem_inputs (m : Memory) : (s.setMem m).inputs = s.inputs := rfl
@[simp] theorem State.setMem_deviceLog (m : Memory) : (s.setMem m).deviceLog = s.deviceLog := rfl
@[simp] theorem State.setMem_draws (m : Memory) : (s.setMem m).draws = s.draws := rfl
@[simp] theorem State.setMem_cycles (m : Memory) : (s.setMem m).cycles = s.cycles := rfl
@[simp] theorem State.setMem_params (m : Memory) : (s.setMem m).params = s.params := rfl

@[simp] theorem State.logDevice_a (cell : Host.Cell) : (s.logDevice cell).a = s.a := rfl
@[simp] theorem State.logDevice_x (cell : Host.Cell) : (s.logDevice cell).x = s.x := rfl
@[simp] theorem State.logDevice_y (cell : Host.Cell) : (s.logDevice cell).y = s.y := rfl
@[simp] theorem State.logDevice_sp (cell : Host.Cell) : (s.logDevice cell).sp = s.sp := rfl
@[simp] theorem State.logDevice_pc (cell : Host.Cell) : (s.logDevice cell).pc = s.pc := rfl
@[simp] theorem State.logDevice_n (cell : Host.Cell) : (s.logDevice cell).n = s.n := rfl
@[simp] theorem State.logDevice_v (cell : Host.Cell) : (s.logDevice cell).v = s.v := rfl
@[simp] theorem State.logDevice_d (cell : Host.Cell) : (s.logDevice cell).d = s.d := rfl
@[simp] theorem State.logDevice_i (cell : Host.Cell) : (s.logDevice cell).i = s.i := rfl
@[simp] theorem State.logDevice_z (cell : Host.Cell) : (s.logDevice cell).z = s.z := rfl
@[simp] theorem State.logDevice_c (cell : Host.Cell) : (s.logDevice cell).c = s.c := rfl
@[simp] theorem State.logDevice_jammed (cell : Host.Cell) : (s.logDevice cell).jammed = s.jammed := rfl
@[simp] theorem State.logDevice_irqLine (cell : Host.Cell) : (s.logDevice cell).irqLine = s.irqLine := rfl
@[simp] theorem State.logDevice_nmiPending (cell : Host.Cell) : (s.logDevice cell).nmiPending = s.nmiPending := rfl
@[simp] theorem State.logDevice_resetPending (cell : Host.Cell) : (s.logDevice cell).resetPending = s.resetPending := rfl
@[simp] theorem State.logDevice_mem (cell : Host.Cell) : (s.logDevice cell).mem = s.mem := rfl
@[simp] theorem State.logDevice_inputs (cell : Host.Cell) : (s.logDevice cell).inputs = s.inputs := rfl
@[simp] theorem State.logDevice_deviceLog (cell : Host.Cell) : (s.logDevice cell).deviceLog = s.deviceLog ++ [cell] := rfl
@[simp] theorem State.logDevice_draws (cell : Host.Cell) : (s.logDevice cell).draws = s.draws := rfl
@[simp] theorem State.logDevice_cycles (cell : Host.Cell) : (s.logDevice cell).cycles = s.cycles := rfl
@[simp] theorem State.logDevice_params (cell : Host.Cell) : (s.logDevice cell).params = s.params := rfl

@[simp] theorem State.countDraw_a : (s.countDraw).a = s.a := rfl
@[simp] theorem State.countDraw_x : (s.countDraw).x = s.x := rfl
@[simp] theorem State.countDraw_y : (s.countDraw).y = s.y := rfl
@[simp] theorem State.countDraw_sp : (s.countDraw).sp = s.sp := rfl
@[simp] theorem State.countDraw_pc : (s.countDraw).pc = s.pc := rfl
@[simp] theorem State.countDraw_n : (s.countDraw).n = s.n := rfl
@[simp] theorem State.countDraw_v : (s.countDraw).v = s.v := rfl
@[simp] theorem State.countDraw_d : (s.countDraw).d = s.d := rfl
@[simp] theorem State.countDraw_i : (s.countDraw).i = s.i := rfl
@[simp] theorem State.countDraw_z : (s.countDraw).z = s.z := rfl
@[simp] theorem State.countDraw_c : (s.countDraw).c = s.c := rfl
@[simp] theorem State.countDraw_jammed : (s.countDraw).jammed = s.jammed := rfl
@[simp] theorem State.countDraw_irqLine : (s.countDraw).irqLine = s.irqLine := rfl
@[simp] theorem State.countDraw_nmiPending : (s.countDraw).nmiPending = s.nmiPending := rfl
@[simp] theorem State.countDraw_resetPending : (s.countDraw).resetPending = s.resetPending := rfl
@[simp] theorem State.countDraw_mem : (s.countDraw).mem = s.mem := rfl
@[simp] theorem State.countDraw_inputs : (s.countDraw).inputs = s.inputs := rfl
@[simp] theorem State.countDraw_deviceLog : (s.countDraw).deviceLog = s.deviceLog := rfl
@[simp] theorem State.countDraw_draws : (s.countDraw).draws = s.draws + 1 := rfl
@[simp] theorem State.countDraw_cycles : (s.countDraw).cycles = s.cycles := rfl
@[simp] theorem State.countDraw_params : (s.countDraw).params = s.params := rfl

@[simp] theorem State.addCycles_a (k : Nat) : (s.addCycles k).a = s.a := rfl
@[simp] theorem State.addCycles_x (k : Nat) : (s.addCycles k).x = s.x := rfl
@[simp] theorem State.addCycles_y (k : Nat) : (s.addCycles k).y = s.y := rfl
@[simp] theorem State.addCycles_sp (k : Nat) : (s.addCycles k).sp = s.sp := rfl
@[simp] theorem State.addCycles_pc (k : Nat) : (s.addCycles k).pc = s.pc := rfl
@[simp] theorem State.addCycles_n (k : Nat) : (s.addCycles k).n = s.n := rfl
@[simp] theorem State.addCycles_v (k : Nat) : (s.addCycles k).v = s.v := rfl
@[simp] theorem State.addCycles_d (k : Nat) : (s.addCycles k).d = s.d := rfl
@[simp] theorem State.addCycles_i (k : Nat) : (s.addCycles k).i = s.i := rfl
@[simp] theorem State.addCycles_z (k : Nat) : (s.addCycles k).z = s.z := rfl
@[simp] theorem State.addCycles_c (k : Nat) : (s.addCycles k).c = s.c := rfl
@[simp] theorem State.addCycles_jammed (k : Nat) : (s.addCycles k).jammed = s.jammed := rfl
@[simp] theorem State.addCycles_irqLine (k : Nat) : (s.addCycles k).irqLine = s.irqLine := rfl
@[simp] theorem State.addCycles_nmiPending (k : Nat) : (s.addCycles k).nmiPending = s.nmiPending := rfl
@[simp] theorem State.addCycles_resetPending (k : Nat) : (s.addCycles k).resetPending = s.resetPending := rfl
@[simp] theorem State.addCycles_mem (k : Nat) : (s.addCycles k).mem = s.mem := rfl
@[simp] theorem State.addCycles_inputs (k : Nat) : (s.addCycles k).inputs = s.inputs := rfl
@[simp] theorem State.addCycles_deviceLog (k : Nat) : (s.addCycles k).deviceLog = s.deviceLog := rfl
@[simp] theorem State.addCycles_draws (k : Nat) : (s.addCycles k).draws = s.draws := rfl
@[simp] theorem State.addCycles_cycles (k : Nat) : (s.addCycles k).cycles = s.cycles + k := rfl
@[simp] theorem State.addCycles_params (k : Nat) : (s.addCycles k).params = s.params := rfl

@[simp] theorem State.clearNmi_a : (s.clearNmi).a = s.a := rfl
@[simp] theorem State.clearNmi_x : (s.clearNmi).x = s.x := rfl
@[simp] theorem State.clearNmi_y : (s.clearNmi).y = s.y := rfl
@[simp] theorem State.clearNmi_sp : (s.clearNmi).sp = s.sp := rfl
@[simp] theorem State.clearNmi_pc : (s.clearNmi).pc = s.pc := rfl
@[simp] theorem State.clearNmi_n : (s.clearNmi).n = s.n := rfl
@[simp] theorem State.clearNmi_v : (s.clearNmi).v = s.v := rfl
@[simp] theorem State.clearNmi_d : (s.clearNmi).d = s.d := rfl
@[simp] theorem State.clearNmi_i : (s.clearNmi).i = s.i := rfl
@[simp] theorem State.clearNmi_z : (s.clearNmi).z = s.z := rfl
@[simp] theorem State.clearNmi_c : (s.clearNmi).c = s.c := rfl
@[simp] theorem State.clearNmi_jammed : (s.clearNmi).jammed = s.jammed := rfl
@[simp] theorem State.clearNmi_irqLine : (s.clearNmi).irqLine = s.irqLine := rfl
@[simp] theorem State.clearNmi_nmiPending : (s.clearNmi).nmiPending = false := rfl
@[simp] theorem State.clearNmi_resetPending : (s.clearNmi).resetPending = s.resetPending := rfl
@[simp] theorem State.clearNmi_mem : (s.clearNmi).mem = s.mem := rfl
@[simp] theorem State.clearNmi_inputs : (s.clearNmi).inputs = s.inputs := rfl
@[simp] theorem State.clearNmi_deviceLog : (s.clearNmi).deviceLog = s.deviceLog := rfl
@[simp] theorem State.clearNmi_draws : (s.clearNmi).draws = s.draws := rfl
@[simp] theorem State.clearNmi_cycles : (s.clearNmi).cycles = s.cycles := rfl
@[simp] theorem State.clearNmi_params : (s.clearNmi).params = s.params := rfl

@[simp] theorem State.setNZ_a (r : Byte) : (s.setNZ r).a = s.a := rfl
@[simp] theorem State.setNZ_x (r : Byte) : (s.setNZ r).x = s.x := rfl
@[simp] theorem State.setNZ_y (r : Byte) : (s.setNZ r).y = s.y := rfl
@[simp] theorem State.setNZ_sp (r : Byte) : (s.setNZ r).sp = s.sp := rfl
@[simp] theorem State.setNZ_pc (r : Byte) : (s.setNZ r).pc = s.pc := rfl
@[simp] theorem State.setNZ_n (r : Byte) : (s.setNZ r).n = bit r 7 := rfl
@[simp] theorem State.setNZ_v (r : Byte) : (s.setNZ r).v = s.v := rfl
@[simp] theorem State.setNZ_d (r : Byte) : (s.setNZ r).d = s.d := rfl
@[simp] theorem State.setNZ_i (r : Byte) : (s.setNZ r).i = s.i := rfl
@[simp] theorem State.setNZ_z (r : Byte) : (s.setNZ r).z = decide (r = 0) := rfl
@[simp] theorem State.setNZ_c (r : Byte) : (s.setNZ r).c = s.c := rfl
@[simp] theorem State.setNZ_jammed (r : Byte) : (s.setNZ r).jammed = s.jammed := rfl
@[simp] theorem State.setNZ_irqLine (r : Byte) : (s.setNZ r).irqLine = s.irqLine := rfl
@[simp] theorem State.setNZ_nmiPending (r : Byte) : (s.setNZ r).nmiPending = s.nmiPending := rfl
@[simp] theorem State.setNZ_resetPending (r : Byte) : (s.setNZ r).resetPending = s.resetPending := rfl
@[simp] theorem State.setNZ_mem (r : Byte) : (s.setNZ r).mem = s.mem := rfl
@[simp] theorem State.setNZ_inputs (r : Byte) : (s.setNZ r).inputs = s.inputs := rfl
@[simp] theorem State.setNZ_deviceLog (r : Byte) : (s.setNZ r).deviceLog = s.deviceLog := rfl
@[simp] theorem State.setNZ_draws (r : Byte) : (s.setNZ r).draws = s.draws := rfl
@[simp] theorem State.setNZ_cycles (r : Byte) : (s.setNZ r).cycles = s.cycles := rfl
@[simp] theorem State.setNZ_params (r : Byte) : (s.setNZ r).params = s.params := rfl

@[simp] theorem State.setArith_a (q : ArithResult) : (s.setArith q).a = q.r := rfl
@[simp] theorem State.setArith_x (q : ArithResult) : (s.setArith q).x = s.x := rfl
@[simp] theorem State.setArith_y (q : ArithResult) : (s.setArith q).y = s.y := rfl
@[simp] theorem State.setArith_sp (q : ArithResult) : (s.setArith q).sp = s.sp := rfl
@[simp] theorem State.setArith_pc (q : ArithResult) : (s.setArith q).pc = s.pc := rfl
@[simp] theorem State.setArith_n (q : ArithResult) : (s.setArith q).n = q.n := rfl
@[simp] theorem State.setArith_v (q : ArithResult) : (s.setArith q).v = q.v := rfl
@[simp] theorem State.setArith_d (q : ArithResult) : (s.setArith q).d = s.d := rfl
@[simp] theorem State.setArith_i (q : ArithResult) : (s.setArith q).i = s.i := rfl
@[simp] theorem State.setArith_z (q : ArithResult) : (s.setArith q).z = q.z := rfl
@[simp] theorem State.setArith_c (q : ArithResult) : (s.setArith q).c = q.c := rfl
@[simp] theorem State.setArith_jammed (q : ArithResult) : (s.setArith q).jammed = s.jammed := rfl
@[simp] theorem State.setArith_irqLine (q : ArithResult) : (s.setArith q).irqLine = s.irqLine := rfl
@[simp] theorem State.setArith_nmiPending (q : ArithResult) : (s.setArith q).nmiPending = s.nmiPending := rfl
@[simp] theorem State.setArith_resetPending (q : ArithResult) : (s.setArith q).resetPending = s.resetPending := rfl
@[simp] theorem State.setArith_mem (q : ArithResult) : (s.setArith q).mem = s.mem := rfl
@[simp] theorem State.setArith_inputs (q : ArithResult) : (s.setArith q).inputs = s.inputs := rfl
@[simp] theorem State.setArith_deviceLog (q : ArithResult) : (s.setArith q).deviceLog = s.deviceLog := rfl
@[simp] theorem State.setArith_draws (q : ArithResult) : (s.setArith q).draws = s.draws := rfl
@[simp] theorem State.setArith_cycles (q : ArithResult) : (s.setArith q).cycles = s.cycles := rfl
@[simp] theorem State.setArith_params (q : ArithResult) : (s.setArith q).params = s.params := rfl

@[simp] theorem State.setCompare_a (r m : Byte) : (s.setCompare r m).a = s.a := rfl
@[simp] theorem State.setCompare_x (r m : Byte) : (s.setCompare r m).x = s.x := rfl
@[simp] theorem State.setCompare_y (r m : Byte) : (s.setCompare r m).y = s.y := rfl
@[simp] theorem State.setCompare_sp (r m : Byte) : (s.setCompare r m).sp = s.sp := rfl
@[simp] theorem State.setCompare_pc (r m : Byte) : (s.setCompare r m).pc = s.pc := rfl
@[simp] theorem State.setCompare_n (r m : Byte) : (s.setCompare r m).n = bit (r - m) 7 := rfl
@[simp] theorem State.setCompare_v (r m : Byte) : (s.setCompare r m).v = s.v := rfl
@[simp] theorem State.setCompare_d (r m : Byte) : (s.setCompare r m).d = s.d := rfl
@[simp] theorem State.setCompare_i (r m : Byte) : (s.setCompare r m).i = s.i := rfl
@[simp] theorem State.setCompare_z (r m : Byte) : (s.setCompare r m).z = decide (r = m) := rfl
@[simp] theorem State.setCompare_c (r m : Byte) : (s.setCompare r m).c = decide (m.toNat ≤ r.toNat) := rfl
@[simp] theorem State.setCompare_jammed (r m : Byte) : (s.setCompare r m).jammed = s.jammed := rfl
@[simp] theorem State.setCompare_irqLine (r m : Byte) : (s.setCompare r m).irqLine = s.irqLine := rfl
@[simp] theorem State.setCompare_nmiPending (r m : Byte) : (s.setCompare r m).nmiPending = s.nmiPending := rfl
@[simp] theorem State.setCompare_resetPending (r m : Byte) : (s.setCompare r m).resetPending = s.resetPending := rfl
@[simp] theorem State.setCompare_mem (r m : Byte) : (s.setCompare r m).mem = s.mem := rfl
@[simp] theorem State.setCompare_inputs (r m : Byte) : (s.setCompare r m).inputs = s.inputs := rfl
@[simp] theorem State.setCompare_deviceLog (r m : Byte) : (s.setCompare r m).deviceLog = s.deviceLog := rfl
@[simp] theorem State.setCompare_draws (r m : Byte) : (s.setCompare r m).draws = s.draws := rfl
@[simp] theorem State.setCompare_cycles (r m : Byte) : (s.setCompare r m).cycles = s.cycles := rfl
@[simp] theorem State.setCompare_params (r m : Byte) : (s.setCompare r m).params = s.params := rfl

@[simp] theorem State.setBitTest_a (m : Byte) : (s.setBitTest m).a = s.a := rfl
@[simp] theorem State.setBitTest_x (m : Byte) : (s.setBitTest m).x = s.x := rfl
@[simp] theorem State.setBitTest_y (m : Byte) : (s.setBitTest m).y = s.y := rfl
@[simp] theorem State.setBitTest_sp (m : Byte) : (s.setBitTest m).sp = s.sp := rfl
@[simp] theorem State.setBitTest_pc (m : Byte) : (s.setBitTest m).pc = s.pc := rfl
@[simp] theorem State.setBitTest_n (m : Byte) : (s.setBitTest m).n = bit m 7 := rfl
@[simp] theorem State.setBitTest_v (m : Byte) : (s.setBitTest m).v = bit m 6 := rfl
@[simp] theorem State.setBitTest_d (m : Byte) : (s.setBitTest m).d = s.d := rfl
@[simp] theorem State.setBitTest_i (m : Byte) : (s.setBitTest m).i = s.i := rfl
@[simp] theorem State.setBitTest_z (m : Byte) : (s.setBitTest m).z = decide (s.a &&& m = 0) := rfl
@[simp] theorem State.setBitTest_c (m : Byte) : (s.setBitTest m).c = s.c := rfl
@[simp] theorem State.setBitTest_jammed (m : Byte) : (s.setBitTest m).jammed = s.jammed := rfl
@[simp] theorem State.setBitTest_irqLine (m : Byte) : (s.setBitTest m).irqLine = s.irqLine := rfl
@[simp] theorem State.setBitTest_nmiPending (m : Byte) : (s.setBitTest m).nmiPending = s.nmiPending := rfl
@[simp] theorem State.setBitTest_resetPending (m : Byte) : (s.setBitTest m).resetPending = s.resetPending := rfl
@[simp] theorem State.setBitTest_mem (m : Byte) : (s.setBitTest m).mem = s.mem := rfl
@[simp] theorem State.setBitTest_inputs (m : Byte) : (s.setBitTest m).inputs = s.inputs := rfl
@[simp] theorem State.setBitTest_deviceLog (m : Byte) : (s.setBitTest m).deviceLog = s.deviceLog := rfl
@[simp] theorem State.setBitTest_draws (m : Byte) : (s.setBitTest m).draws = s.draws := rfl
@[simp] theorem State.setBitTest_cycles (m : Byte) : (s.setBitTest m).cycles = s.cycles := rfl
@[simp] theorem State.setBitTest_params (m : Byte) : (s.setBitTest m).params = s.params := rfl

@[simp] theorem State.setP_a (p : Byte) : (s.setP p).a = s.a := rfl
@[simp] theorem State.setP_x (p : Byte) : (s.setP p).x = s.x := rfl
@[simp] theorem State.setP_y (p : Byte) : (s.setP p).y = s.y := rfl
@[simp] theorem State.setP_sp (p : Byte) : (s.setP p).sp = s.sp := rfl
@[simp] theorem State.setP_pc (p : Byte) : (s.setP p).pc = s.pc := rfl
@[simp] theorem State.setP_n (p : Byte) : (s.setP p).n = bit p 7 := rfl
@[simp] theorem State.setP_v (p : Byte) : (s.setP p).v = bit p 6 := rfl
@[simp] theorem State.setP_d (p : Byte) : (s.setP p).d = bit p 3 := rfl
@[simp] theorem State.setP_i (p : Byte) : (s.setP p).i = bit p 2 := rfl
@[simp] theorem State.setP_z (p : Byte) : (s.setP p).z = bit p 1 := rfl
@[simp] theorem State.setP_c (p : Byte) : (s.setP p).c = bit p 0 := rfl
@[simp] theorem State.setP_jammed (p : Byte) : (s.setP p).jammed = s.jammed := rfl
@[simp] theorem State.setP_irqLine (p : Byte) : (s.setP p).irqLine = s.irqLine := rfl
@[simp] theorem State.setP_nmiPending (p : Byte) : (s.setP p).nmiPending = s.nmiPending := rfl
@[simp] theorem State.setP_resetPending (p : Byte) : (s.setP p).resetPending = s.resetPending := rfl
@[simp] theorem State.setP_mem (p : Byte) : (s.setP p).mem = s.mem := rfl
@[simp] theorem State.setP_inputs (p : Byte) : (s.setP p).inputs = s.inputs := rfl
@[simp] theorem State.setP_deviceLog (p : Byte) : (s.setP p).deviceLog = s.deviceLog := rfl
@[simp] theorem State.setP_draws (p : Byte) : (s.setP p).draws = s.draws := rfl
@[simp] theorem State.setP_cycles (p : Byte) : (s.setP p).cycles = s.cycles := rfl
@[simp] theorem State.setP_params (p : Byte) : (s.setP p).params = s.params := rfl

@[simp] theorem State.advance_a (len : Nat) : (s.advance len).a = s.a := rfl
@[simp] theorem State.advance_x (len : Nat) : (s.advance len).x = s.x := rfl
@[simp] theorem State.advance_y (len : Nat) : (s.advance len).y = s.y := rfl
@[simp] theorem State.advance_sp (len : Nat) : (s.advance len).sp = s.sp := rfl
@[simp] theorem State.advance_pc (len : Nat) : (s.advance len).pc = s.pc + BitVec.ofNat 16 len := rfl
@[simp] theorem State.advance_n (len : Nat) : (s.advance len).n = s.n := rfl
@[simp] theorem State.advance_v (len : Nat) : (s.advance len).v = s.v := rfl
@[simp] theorem State.advance_d (len : Nat) : (s.advance len).d = s.d := rfl
@[simp] theorem State.advance_i (len : Nat) : (s.advance len).i = s.i := rfl
@[simp] theorem State.advance_z (len : Nat) : (s.advance len).z = s.z := rfl
@[simp] theorem State.advance_c (len : Nat) : (s.advance len).c = s.c := rfl
@[simp] theorem State.advance_jammed (len : Nat) : (s.advance len).jammed = s.jammed := rfl
@[simp] theorem State.advance_irqLine (len : Nat) : (s.advance len).irqLine = s.irqLine := rfl
@[simp] theorem State.advance_nmiPending (len : Nat) : (s.advance len).nmiPending = s.nmiPending := rfl
@[simp] theorem State.advance_resetPending (len : Nat) : (s.advance len).resetPending = s.resetPending := rfl
@[simp] theorem State.advance_mem (len : Nat) : (s.advance len).mem = s.mem := rfl
@[simp] theorem State.advance_inputs (len : Nat) : (s.advance len).inputs = s.inputs := rfl
@[simp] theorem State.advance_deviceLog (len : Nat) : (s.advance len).deviceLog = s.deviceLog := rfl
@[simp] theorem State.advance_draws (len : Nat) : (s.advance len).draws = s.draws := rfl
@[simp] theorem State.advance_cycles (len : Nat) : (s.advance len).cycles = s.cycles := rfl
@[simp] theorem State.advance_params (len : Nat) : (s.advance len).params = s.params := rfl

@[simp] theorem State.unspecify_a (q : ResetRegisters) : (s.unspecify q).a = q.a := rfl
@[simp] theorem State.unspecify_x (q : ResetRegisters) : (s.unspecify q).x = q.x := rfl
@[simp] theorem State.unspecify_y (q : ResetRegisters) : (s.unspecify q).y = q.y := rfl
@[simp] theorem State.unspecify_sp (q : ResetRegisters) : (s.unspecify q).sp = q.sp := rfl
@[simp] theorem State.unspecify_pc (q : ResetRegisters) : (s.unspecify q).pc = s.pc := rfl
@[simp] theorem State.unspecify_n (q : ResetRegisters) : (s.unspecify q).n = q.n := rfl
@[simp] theorem State.unspecify_v (q : ResetRegisters) : (s.unspecify q).v = q.v := rfl
@[simp] theorem State.unspecify_d (q : ResetRegisters) : (s.unspecify q).d = q.d := rfl
@[simp] theorem State.unspecify_i (q : ResetRegisters) : (s.unspecify q).i = s.i := rfl
@[simp] theorem State.unspecify_z (q : ResetRegisters) : (s.unspecify q).z = q.z := rfl
@[simp] theorem State.unspecify_c (q : ResetRegisters) : (s.unspecify q).c = q.c := rfl
@[simp] theorem State.unspecify_jammed (q : ResetRegisters) : (s.unspecify q).jammed = s.jammed := rfl
@[simp] theorem State.unspecify_irqLine (q : ResetRegisters) : (s.unspecify q).irqLine = s.irqLine := rfl
@[simp] theorem State.unspecify_nmiPending (q : ResetRegisters) : (s.unspecify q).nmiPending = s.nmiPending := rfl
@[simp] theorem State.unspecify_resetPending (q : ResetRegisters) : (s.unspecify q).resetPending = s.resetPending := rfl
@[simp] theorem State.unspecify_mem (q : ResetRegisters) : (s.unspecify q).mem = s.mem := rfl
@[simp] theorem State.unspecify_inputs (q : ResetRegisters) : (s.unspecify q).inputs = s.inputs := rfl
@[simp] theorem State.unspecify_deviceLog (q : ResetRegisters) : (s.unspecify q).deviceLog = s.deviceLog := rfl
@[simp] theorem State.unspecify_draws (q : ResetRegisters) : (s.unspecify q).draws = s.draws := rfl
@[simp] theorem State.unspecify_cycles (q : ResetRegisters) : (s.unspecify q).cycles = s.cycles := rfl
@[simp] theorem State.unspecify_params (q : ResetRegisters) : (s.unspecify q).params = s.params := rfl

@[simp] theorem State.clearConditions_a : (s.clearConditions).a = s.a := rfl
@[simp] theorem State.clearConditions_x : (s.clearConditions).x = s.x := rfl
@[simp] theorem State.clearConditions_y : (s.clearConditions).y = s.y := rfl
@[simp] theorem State.clearConditions_sp : (s.clearConditions).sp = s.sp := rfl
@[simp] theorem State.clearConditions_pc : (s.clearConditions).pc = s.pc := rfl
@[simp] theorem State.clearConditions_n : (s.clearConditions).n = s.n := rfl
@[simp] theorem State.clearConditions_v : (s.clearConditions).v = s.v := rfl
@[simp] theorem State.clearConditions_d : (s.clearConditions).d = s.d := rfl
@[simp] theorem State.clearConditions_i : (s.clearConditions).i = s.i := rfl
@[simp] theorem State.clearConditions_z : (s.clearConditions).z = s.z := rfl
@[simp] theorem State.clearConditions_c : (s.clearConditions).c = s.c := rfl
@[simp] theorem State.clearConditions_jammed : (s.clearConditions).jammed = false := rfl
@[simp] theorem State.clearConditions_irqLine : (s.clearConditions).irqLine = s.irqLine := rfl
@[simp] theorem State.clearConditions_nmiPending : (s.clearConditions).nmiPending = false := rfl
@[simp] theorem State.clearConditions_resetPending : (s.clearConditions).resetPending = false := rfl
@[simp] theorem State.clearConditions_mem : (s.clearConditions).mem = s.mem := rfl
@[simp] theorem State.clearConditions_inputs : (s.clearConditions).inputs = s.inputs := rfl
@[simp] theorem State.clearConditions_deviceLog : (s.clearConditions).deviceLog = s.deviceLog := rfl
@[simp] theorem State.clearConditions_draws : (s.clearConditions).draws = s.draws := rfl
@[simp] theorem State.clearConditions_cycles : (s.clearConditions).cycles = s.cycles := rfl
@[simp] theorem State.clearConditions_params : (s.clearConditions).params = s.params := rfl

end Sys2Proof.Machine
end

