-- ==== Sys2Proof/Laws/Ops.lean ====
section
/-!
SUPPORT. For each named operation of `Machine/Ops.lean`, one lemma that says once everything it can do when it answers. A reader
cites these and unfolds nothing.
-/

namespace Sys2Proof.Machine

@[simp] theorem andThen_next {α β : Type} (a : α) (f : α → Out β) : andThen (.next a) f = f a := rfl
@[simp] theorem andThen_fault {α β : Type} (r : Fault) (f : α → Out β) : andThen (.fault r : Out α) f = .fault r := rfl
@[simp] theorem andThen_refused {α β : Type} (r : Refusal) (f : α → Out β) :
    andThen (.refused r : Out α) f = .refused r := rfl

/-- A sequence answers when both parts do. -/
theorem andThen_eq_next {α β : Type} {o : Out α} {f : α → Out β} {b : β} :
    andThen o f = .next b ↔ ∃ a, o = .next a ∧ f a = .next b := by
  cases o <;> simp

/-- Everything in the state but the count of free values taken is as before. -/
def State.Reads (s t : State) : Prop := t = { s with draws := t.draws }

theorem State.Reads.refl (s : State) : s.Reads s := rfl

theorem State.Reads.countDraw (s : State) : s.Reads s.countDraw := rfl

theorem State.Reads.trans {s t u : State} (h₁ : s.Reads t) (h₂ : t.Reads u) : s.Reads u := by
  unfold State.Reads at *
  rw [h₂, h₁]

theorem State.Reads.kindAt {s t : State} (h : s.Reads t) (a : Addr) : t.kindAt a = s.kindAt a := by
  rw [h]; rfl

theorem State.Reads.peek {s t : State} (h : s.Reads t) (a : Addr) : t.peek a = s.peek a := by
  rw [h]; rfl

/-- What a read can answer: the byte a RAM or ROM cell holds, nothing changed; or, for a device, a free value, one more taken. -/
theorem State.read_next {s t : State} {a : Addr} {b : Byte} (h : s.read a = .next (b, t)) :
    ((s.kindAt a = .ram ∨ s.kindAt a = .rom) ∧ s.peek a = some b ∧ t = s) ∨
      (s.kindAt a = .device false ∧ b = Config.deviceRead s.draws a ∧ t = s.countDraw) := by
  unfold State.read at h
  split at h
  · next hk =>
    split at h
    · next hp => cases h; exact .inl ⟨.inl hk, hp, rfl⟩
    · cases h
  · next hk =>
    split at h
    · next hp => cases h; exact .inl ⟨.inr hk, hp, rfl⟩
    · cases h
  · cases h
  · next hk => cases h; exact .inr ⟨hk, rfl, rfl⟩
  · cases h

theorem State.read_reads {s t : State} {a : Addr} {b : Byte} (h : s.read a = .next (b, t)) : s.Reads t := by
  obtain ⟨-, -, rfl⟩ | ⟨-, -, rfl⟩ := State.read_next h
  · exact .refl _
  · exact .countDraw _

/-- A read looks at the memory map, the memory and the count of free values only. -/
theorem State.read_congr {s t : State} (hp : t.params = s.params) (hm : t.mem = s.mem) (hd : t.draws = s.draws)
    (a : Addr) : t.read a = andThen (s.read a) fun q => .next (q.1, { t with draws := q.2.draws }) := by
  have hk : t.kindAt a = s.kindAt a := by simp [State.kindAt, hp]
  have he : t.peek a = s.peek a := by simp [State.peek, hm]
  unfold State.read
  rw [hk, he]
  split
  · split <;> simp [← hd]
  · split <;> simp [← hd]
  · rfl
  · simp [State.countDraw, hd]
  · rfl

/-- The state after a byte is written to an address (rule R46): RAM holds it, the host is told of it for a device, and nothing
else changes. -/
def State.wrote (a : Addr) (b : Byte) (s : State) : State :=
  { s with mem := if s.kindAt a = .ram then Memory.set s.mem a.toNat b else s.mem,
           deviceLog := if s.kindAt a = .device false then s.deviceLog ++ [(a.toNat, b)] else s.deviceLog }

/-- A write answers unless the cell is a device whose reads have side effects, and says so. -/
theorem State.write_eq (s : State) (a : Addr) (b : Byte) :
    s.write a b = if s.kindAt a = .device true then .refused (.deviceWithReadEffects a) else .next (s.wrote a b) := by
  unfold State.write State.wrote
  split <;> simp_all <;> rfl

theorem State.write_next {s t : State} {a : Addr} {b : Byte} (h : s.write a b = .next t) :
    s.kindAt a ≠ .device true ∧ t = s.wrote a b := by
  rw [State.write_eq] at h
  split at h
  · cases h
  · next hk => cases h; exact ⟨hk, rfl⟩

/-- A cell other than the one written looks as before. -/
theorem State.peek_wrote_other {s : State} {a k : Addr} (b : Byte) (h : k ≠ a) : (s.wrote a b).peek k = s.peek k := by
  have hk : k.toNat ≠ a.toNat := fun e => h (BitVec.eq_of_toNat_eq e)
  simp only [State.peek, State.wrote]
  split
  · exact Memory.get?_set_other s.mem b hk
  · rfl

/-- A RAM cell holds the byte written to it. -/
theorem State.peek_wrote_same {s : State} {a : Addr} (b : Byte) (h : s.kindAt a = .ram) :
    (s.wrote a b).peek a = some b := by
  simp only [State.peek, State.wrote, if_pos h]
  exact Memory.get?_set_same _ _ _

@[simp] theorem State.wrote_kindAt (s : State) (a : Addr) (b : Byte) (k : Addr) : (s.wrote a b).kindAt k = s.kindAt k := rfl

/-- A push writes the byte at `$0100 + S` and decrements S (rule R36). -/
theorem State.push_next {s t : State} {b : Byte} (h : s.push b = .next t) :
    s.kindAt (stackAddr s.sp) ≠ .device true ∧ t = (s.wrote (stackAddr s.sp) b).setSp (s.sp - 1) := by
  obtain ⟨u, hw, hu⟩ := andThen_eq_next.mp h
  obtain ⟨hk, rfl⟩ := State.write_next hw
  cases hu
  exact ⟨hk, rfl⟩

/-- A pull increments S and reads the byte at `$0100 + S` (rule R36). -/
theorem State.pull_next {s t : State} {b : Byte} (h : s.pull = .next (b, t)) :
    (s.setSp (s.sp + 1)).Reads t ∧ t.sp = s.sp + 1 := by
  have hr := State.read_reads h
  exact ⟨hr, by rw [hr]; rfl⟩

/-- A push, computed. -/
theorem State.push_eq {s : State} (b : Byte) (h : s.kindAt (stackAddr s.sp) ≠ .device true) :
    s.push b = .next ((s.wrote (stackAddr s.sp) b).setSp (s.sp - 1)) := by
  simp only [State.push, State.write_eq, if_neg h, andThen_next]

/-- A pull is a read in the starting state of the cell above S, with S one more. -/
theorem State.pull_eq (s : State) :
    s.pull = andThen (s.read (stackAddr (s.sp + 1))) fun q => .next (q.1, { s with sp := s.sp + 1, draws := q.2.draws }) := by
  rw [State.pull, State.read_congr (s := s) (t := s.setSp (s.sp + 1)) rfl rfl rfl]
  rfl

/-- Two reads, one after the other, make a word. -/
theorem State.readPair_next {s t : State} {low high : Addr} {w : Addr} (h : s.readPair low high = .next (w, t)) :
    ∃ l u b, s.read low = .next (l, u) ∧ u.read high = .next (b, t) ∧ w = word b l := by
  obtain ⟨⟨l, u⟩, h₁, h⟩ := andThen_eq_next.mp h
  obtain ⟨⟨b, v⟩, h₂, h⟩ := andThen_eq_next.mp h
  cases h
  exact ⟨l, u, b, h₁, h₂, rfl⟩

theorem State.readPair_reads {s t : State} {low high : Addr} {w : Addr} (h : s.readPair low high = .next (w, t)) :
    s.Reads t := by
  obtain ⟨l, u, b, h₁, h₂, -⟩ := State.readPair_next h
  exact (State.read_reads h₁).trans (State.read_reads h₂)

/-- A word is pushed high byte first (rule R141). -/
theorem State.pushWord_next {s t : State} {w : Addr} (h : s.pushWord w = .next t) :
    ∃ u, s.push (hi w) = .next u ∧ u.push (lo w) = .next t := by
  obtain ⟨u, h₁, h₂⟩ := andThen_eq_next.mp h
  exact ⟨u, h₁, h₂⟩

/-- A word is pulled low byte first (rule R169). -/
theorem State.pullWord_next {s t : State} {w : Addr} (h : s.pullWord = .next (w, t)) :
    ∃ l u b, s.pull = .next (l, u) ∧ u.pull = .next (b, t) ∧ w = word b l := by
  obtain ⟨⟨l, u⟩, h₁, h⟩ := andThen_eq_next.mp h
  obtain ⟨⟨b, v⟩, h₂, h⟩ := andThen_eq_next.mp h
  cases h
  exact ⟨l, u, b, h₁, h₂, rfl⟩

/-- Taking an exception: three pushes, I set, PC from the vector (rule R306). -/
theorem State.takeException_next {s t : State} {vector ret : Addr} {b : Bool} (h : s.takeException vector ret b = .next t) :
    ∃ s₁ s₂ s₃ w s₄, s.push (hi ret) = .next s₁ ∧ s₁.push (lo ret) = .next s₂ ∧ s₂.push (pByte b s₂) = .next s₃ ∧
      (s₃.setI true).readPair vector (vector + 1) = .next (w, s₄) ∧ t = s₄.setPc w := by
  obtain ⟨s₂, h₁, h⟩ := andThen_eq_next.mp h
  obtain ⟨s₁, h₀, h₁⟩ := State.pushWord_next h₁
  obtain ⟨s₃, h₂, h⟩ := andThen_eq_next.mp h
  obtain ⟨⟨w, s₄⟩, h₃, h⟩ := andThen_eq_next.mp h
  cases h
  exact ⟨s₁, s₂, s₃, w, s₄, h₀, h₁, h₂, h₃, rfl⟩

/-- The return from an exception: the status byte, then PC low and high (rule R307). -/
theorem State.returnFromException_next {s t : State} (h : s.returnFromException = .next t) :
    ∃ p s₁ w s₂, s.pull = .next (p, s₁) ∧ (s₁.setP p).pullWord = .next (w, s₂) ∧ t = s₂.setPc w := by
  obtain ⟨⟨p, s₁⟩, h₁, h⟩ := andThen_eq_next.mp h
  obtain ⟨⟨w, s₂⟩, h₂, h⟩ := andThen_eq_next.mp h
  cases h
  exact ⟨p, s₁, w, s₂, h₁, h₂, rfl⟩

/-- A RESET: the unspecified registers hold free values, the conditions end, I is set, PC comes from the vector (rule R340). -/
theorem State.takeReset_next {s t : State} (h : s.takeReset = .next t) :
    ∃ w u, ((((s.unspecify (Config.afterReset s.draws)).countDraw.clearConditions).setI true).readPair resetVector
      (resetVector + 1)) = .next (w, u) ∧ t = (u.setPc w).addCycles 7 := by
  obtain ⟨⟨w, u⟩, h₁, h⟩ := andThen_eq_next.mp h
  cases h
  exact ⟨w, u, h₁, rfl⟩

end Sys2Proof.Machine
end

