-- ==== Sys2Proof/Laws/Operands.lean ====
section
/-!
SUPPORT. For each operand form, one lemma that says once everything it can do when it answers.
-/

namespace Sys2Proof.Machine

/-- Finding an address changes nothing but the count of free values. -/
theorem State.indexed_reads {s t : State} {base : Addr} {index : Byte} {l : Located}
    (h : s.indexed base index = .next (l, t)) : s.Reads t := by
  simp only [State.indexed] at h
  split at h
  · cases h
  · cases h; exact .refl s

theorem State.locate_reads {m : MemMode} {s t : State} {l : Located} (h : s.locate m = .next (l, t)) : s.Reads t := by
  cases m with
  | zeroPage b => cases h; exact .refl s
  | zeroPageX b => cases h; exact .refl s
  | zeroPageY b => cases h; exact .refl s
  | absolute a => cases h; exact .refl s
  | absoluteX a => exact State.indexed_reads h
  | absoluteY a => exact State.indexed_reads h
  | indirectX b =>
    obtain ⟨⟨w, u⟩, h₁, h⟩ := andThen_eq_next.mp h
    cases h
    exact State.readPair_reads h₁
  | indirectY b =>
    obtain ⟨⟨w, u⟩, h₁, h⟩ := andThen_eq_next.mp h
    exact (State.readPair_reads h₁).trans (State.indexed_reads h)

/-- Reading an operand byte changes nothing but the count of free values. -/
theorem State.readSource_reads {r : Source} {s t : State} {b : Byte} (h : s.readSource r = .next (b, t)) : s.Reads t := by
  cases r with
  | immediate b => cases h; exact .refl s
  | memory m =>
    obtain ⟨⟨l, u⟩, h₁, h⟩ := andThen_eq_next.mp h
    exact (State.locate_reads h₁).trans (State.read_reads h)

/-- A store writes its byte at the address the operand names. -/
theorem State.store_next {m : MemMode} {v : Byte} {s t : State} (h : s.store m v = .next t) :
    ∃ l u, s.locate m = .next (l, u) ∧ u.kindAt l.ea ≠ .device true ∧ t = u.wrote l.ea v := by
  obtain ⟨⟨l, u⟩, h₁, h⟩ := andThen_eq_next.mp h
  obtain ⟨hk, rfl⟩ := State.write_next h
  exact ⟨l, u, h₁, hk, rfl⟩

/-- A read-modify-write reads the byte at the address the operand names and writes the new one there. -/
theorem State.modify_next {m : MemMode} {f : Byte → Byte} {s t : State} {b : Byte} (h : s.modify m f = .next (b, t)) :
    ∃ l u v, s.locate m = .next (l, u) ∧ u.read l.ea = .next (b, v) ∧ t = v.wrote l.ea (f b) := by
  obtain ⟨⟨l, u⟩, h₁, h⟩ := andThen_eq_next.mp h
  obtain ⟨⟨b', v⟩, h₂, h⟩ := andThen_eq_next.mp h
  obtain ⟨w, h₃, h⟩ := andThen_eq_next.mp h
  cases h
  exact ⟨l, u, v, h₁, h₂, (State.write_next h₃).2⟩

/-- The read that succeeded shows that the write of a read-modify-write does. -/
theorem State.modify_eq {m : MemMode} {f : Byte → Byte} {s u v : State} {l : Located} {b : Byte}
    (h₁ : s.locate m = .next (l, u)) (h₂ : u.read l.ea = .next (b, v)) :
    s.modify m f = .next (b, v.wrote l.ea (f b)) := by
  have hk : v.kindAt l.ea ≠ .device true := by
    rw [(State.read_reads h₂).kindAt]
    obtain ⟨hk | hk, -, -⟩ | ⟨hk, -, -⟩ := State.read_next h₂ <;> simp [hk]
  unfold State.modify
  rw [h₁]
  simp only [andThen_next, h₂, State.write_eq, if_neg hk]

/-- A store answers when its address is found and its cell is no device with read side effects. -/
theorem State.store_eq {m : MemMode} {v : Byte} {s u : State} {l : Located} (h₁ : s.locate m = .next (l, u))
    (hk : u.kindAt l.ea ≠ .device true) : s.store m v = .next (u.wrote l.ea v) := by
  unfold State.store
  rw [h₁]
  simp only [andThen_next, State.write_eq, if_neg hk]

end Sys2Proof.Machine
end

