-- ==== Sys2Proof/Laws/Exec.lean ====
section
/-!
SUPPORT. The meaning of an instruction read from its form: `exec` does for each of the 256 constructors what the shared operation
of its mnemonic does to its operand. A proof about an instruction rewrites with `exec_eq_run`, then with the form.
-/

namespace Sys2Proof.Machine

/-- What an operation does to an operand. A pair that no instruction has is refused. -/
def runForm (f : Form) (s : State) : Out State :=
  match f.operation, f.operand with
  | .adc, .read r => adc r s
  | .sbc, .read r => sbc r s
  | .cmp, .read r => compareWith s.a r s
  | .cpx, .read r => compareWith s.x r s
  | .cpy, .read r => compareWith s.y r s
  | .and, .read r => logic (· &&& ·) r s
  | .ora, .read r => logic (· ||| ·) r s
  | .eor, .read r => logic (· ^^^ ·) r s
  | .bit, .read r => bitTest r s
  | .lda, .read r => load State.setA r s
  | .ldx, .read r => load State.setX r s
  | .ldy, .read r => load State.setY r s
  | .lax, .read r => lax r s
  | .sta, .write m => storeByte s.a m s
  | .stx, .write m => storeByte s.x m s
  | .sty, .write m => storeByte s.y m s
  | .sax, .write m => sax m s
  | .asl, .modify p => shiftPlace asl p s
  | .lsr, .modify p => shiftPlace lsr p s
  | .rol, .modify p => shiftPlace rol p s
  | .ror, .modify p => shiftPlace ror p s
  | .inc, .modify (.memory m) => addToMemory 1 m s
  | .dec, .modify (.memory m) => addToMemory (-1) m s
  | .slo, .modify (.memory m) => shiftThenLogic asl (· ||| ·) m s
  | .rla, .modify (.memory m) => shiftThenLogic rol (· &&& ·) m s
  | .sre, .modify (.memory m) => shiftThenLogic lsr (· ^^^ ·) m s
  | .rra, .modify (.memory m) => rra m s
  | .isc, .modify (.memory m) => isc m s
  | .dcp, .modify (.memory m) => dcp m s
  | .anc, .read (.immediate b) => anc b s
  | .alr, .read (.immediate b) => execAlr b s
  | .arr, .read (.immediate b) => execArr b s
  | .sbx, .read (.immediate b) => execSbx b s
  | .sha, .write m => unstableStore (s.a &&& s.x) m s
  | .shx, .write m => unstableStore s.x m s
  | .shy, .write m => unstableStore s.y m s
  | .tas, .write m => tas m s
  | .las, .read (.memory m) => las m s
  | .tax, .implied => execTax s
  | .tay, .implied => execTay s
  | .txa, .implied => execTxa s
  | .tya, .implied => execTya s
  | .tsx, .implied => execTsx s
  | .txs, .implied => execTxs s
  | .inx, .implied => execInx s
  | .dex, .implied => execDex s
  | .iny, .implied => execIny s
  | .dey, .implied => execDey s
  | .clc, .implied => execClc s
  | .sec, .implied => execSec s
  | .cld, .implied => execCld s
  | .sed, .implied => execSed s
  | .cli, .implied => execCli s
  | .sei, .implied => execSei s
  | .clv, .implied => execClv s
  | .nop, .implied => execNop s
  | .pha, .implied => execPha s
  | .php, .implied => execPhp s
  | .pla, .implied => execPla s
  | .plp, .implied => execPlp s
  | .bcc, .relative o => execBcc o s
  | .bcs, .relative o => execBcs o s
  | .beq, .relative o => execBeq o s
  | .bne, .relative o => execBne o s
  | .bmi, .relative o => execBmi o s
  | .bpl, .relative o => execBpl o s
  | .bvc, .relative o => execBvc o s
  | .bvs, .relative o => execBvs o s
  | .jmp, .target a => execJmpAbs a s
  | .jmp, .indirect a => execJmpInd a s
  | .jsr, .target a => execJsr a s
  | .rts, .implied => execRts s
  | .rti, .implied => execRti s
  | .brk, .implied => execBrk s
  | .jam, .implied => jam s
  | .illegalNop, .implied => illegalNop 1 s
  | .illegalNop, .read (.immediate _) => illegalNop 2 s
  | .illegalNop, .read (.memory m) => illegalNopAt m s
  | .sbcEB, .read (.immediate b) => execSbcEB b s
  | .ane, .implied => .refused .undetailedOpcode
  | .laxAB, .implied => .refused .undetailedOpcode
  | _, _ => .refused .undetailedOpcode

/-- `exec` does what the form of the instruction says. -/
theorem exec_eq_run (i : Instr) (s : State) : exec i s = runForm i.form s := by
  cases i <;> rfl

end Sys2Proof.Machine
end

