-- ==== Sys2Proof/Laws/Meanings.lean ====
section
/-!
SUPPORT. For each shared operation of the instruction families, one lemma that says once everything it can do: if it answers a next
state, then its operand was found and read, and the next state is this one.
-/

namespace Sys2Proof.Machine

variable {s t : State}

/-- An addition or a subtraction that answers is binary when D = 0, and the supplied function of `DecimalMode` when D = 1. -/
theorem addResult_next {mode : Option DecimalMode} {d : Bool} {a m : Byte} {c : Bool} {q : ArithResult}
    (h : addResult mode d a m c = .next q) :
    (d = false ∧ q = addBinary a m c) ∨ (d = true ∧ ∃ g, mode = some g ∧ q = decimalResult g .add a m c) := by
  unfold addResult inDecimalMode at h
  split at h
  · next hd =>
    split at h
    · cases h; exact .inr ⟨hd, _, rfl, rfl⟩
    · cases h
  · next hd => cases h; exact .inl ⟨by simpa using hd, rfl⟩

theorem subResult_next {mode : Option DecimalMode} {d : Bool} {a m : Byte} {c : Bool} {q : ArithResult}
    (h : subResult mode d a m c = .next q) :
    (d = false ∧ q = subBinary a m c) ∨ (d = true ∧ ∃ g, mode = some g ∧ q = decimalResult g .sub a m c) := by
  unfold subResult inDecimalMode at h
  split at h
  · next hd =>
    split at h
    · cases h; exact .inr ⟨hd, _, rfl, rfl⟩
    · cases h
  · next hd => cases h; exact .inl ⟨by simpa using hd, rfl⟩

@[simp] theorem addResult_binary (mode : Option DecimalMode) (a m : Byte) (c : Bool) :
    addResult mode false a m c = .next (addBinary a m c) := rfl
@[simp] theorem addResult_decimal (g : DecimalMode) (a m : Byte) (c : Bool) :
    addResult (some g) true a m c = .next (decimalResult g .add a m c) := rfl
@[simp] theorem addResult_unspecified (a m : Byte) (c : Bool) :
    addResult none true a m c = .fault .decimalModeUnspecified := rfl
@[simp] theorem subResult_binary (mode : Option DecimalMode) (a m : Byte) (c : Bool) :
    subResult mode false a m c = .next (subBinary a m c) := rfl
@[simp] theorem subResult_decimal (g : DecimalMode) (a m : Byte) (c : Bool) :
    subResult (some g) true a m c = .next (decimalResult g .sub a m c) := rfl
@[simp] theorem subResult_unspecified (a m : Byte) (c : Bool) :
    subResult none true a m c = .fault .decimalModeUnspecified := rfl

theorem adc_next {r : Source} (h : adc r s = .next t) : ∃ m u q, s.readSource r = .next (m, u) ∧
    addResult s.params.decimalMode s.d s.a m s.c = .next q ∧ t = (u.setArith q).advance r.length := by
  obtain ⟨⟨m, u⟩, h₁, h⟩ := andThen_eq_next.mp h
  obtain ⟨q, h₂, h⟩ := andThen_eq_next.mp h
  cases h
  exact ⟨m, u, q, h₁, h₂, rfl⟩

theorem sbc_next {r : Source} (h : sbc r s = .next t) : ∃ m u q, s.readSource r = .next (m, u) ∧
    subResult s.params.decimalMode s.d s.a m s.c = .next q ∧ t = (u.setArith q).advance r.length := by
  obtain ⟨⟨m, u⟩, h₁, h⟩ := andThen_eq_next.mp h
  obtain ⟨q, h₂, h⟩ := andThen_eq_next.mp h
  cases h
  exact ⟨m, u, q, h₁, h₂, rfl⟩

theorem compareWith_next {reg : Byte} {r : Source} (h : compareWith reg r s = .next t) :
    ∃ m u, s.readSource r = .next (m, u) ∧ t = (u.setCompare reg m).advance r.length := by
  obtain ⟨⟨m, u⟩, h₁, h⟩ := andThen_eq_next.mp h
  cases h
  exact ⟨m, u, h₁, rfl⟩

theorem logic_next {f : Byte → Byte → Byte} {r : Source} (h : logic f r s = .next t) :
    ∃ m u, s.readSource r = .next (m, u) ∧ t = ((u.setA (f s.a m)).setNZ (f s.a m)).advance r.length := by
  obtain ⟨⟨m, u⟩, h₁, h⟩ := andThen_eq_next.mp h
  cases h
  exact ⟨m, u, h₁, rfl⟩

theorem bitTest_next {r : Source} (h : bitTest r s = .next t) :
    ∃ m u, s.readSource r = .next (m, u) ∧ t = (u.setBitTest m).advance r.length := by
  obtain ⟨⟨m, u⟩, h₁, h⟩ := andThen_eq_next.mp h
  cases h
  exact ⟨m, u, h₁, rfl⟩

theorem load_next {set : Byte → State → State} {r : Source} (h : load set r s = .next t) :
    ∃ m u, s.readSource r = .next (m, u) ∧ t = ((set m u).setNZ m).advance r.length := by
  obtain ⟨⟨m, u⟩, h₁, h⟩ := andThen_eq_next.mp h
  cases h
  exact ⟨m, u, h₁, rfl⟩

theorem lax_next {r : Source} (h : lax r s = .next t) :
    ∃ m u, s.readSource r = .next (m, u) ∧ t = (((u.setA m).setX m).setNZ m).advance r.length := by
  obtain ⟨⟨m, u⟩, h₁, h⟩ := andThen_eq_next.mp h
  cases h
  exact ⟨m, u, h₁, rfl⟩

theorem storeByte_next {b : Byte} {m : MemMode} (h : storeByte b m s = .next t) :
    ∃ l u, s.locate m = .next (l, u) ∧ u.kindAt l.ea ≠ .device true ∧ t = (u.wrote l.ea b).advance m.length := by
  obtain ⟨v, h₁, h⟩ := andThen_eq_next.mp h
  obtain ⟨l, u, h₂, hk, rfl⟩ := State.store_next h₁
  cases h
  exact ⟨l, u, h₂, hk, rfl⟩

/-- SAX is the store of `A & X`. -/
theorem sax_eq (m : MemMode) (s : State) : sax m s = storeByte (s.a &&& s.x) m s := rfl

theorem shiftPlace_memory_next {f : Shift} {m : MemMode} (h : shiftPlace f (.memory m) s = .next t) :
    ∃ l u b v, s.locate m = .next (l, u) ∧ u.read l.ea = .next (b, v) ∧
      t = (((v.wrote l.ea (f b s.c).1).setC (f b s.c).2).setNZ (f b s.c).1).advance m.length := by
  obtain ⟨⟨b, w⟩, h₁, h⟩ := andThen_eq_next.mp h
  obtain ⟨l, u, v, h₂, h₃, rfl⟩ := State.modify_next h₁
  cases h
  exact ⟨l, u, b, v, h₂, h₃, rfl⟩

theorem addToMemory_next {delta : Byte} {m : MemMode} (h : addToMemory delta m s = .next t) :
    ∃ l u b v, s.locate m = .next (l, u) ∧ u.read l.ea = .next (b, v) ∧
      t = ((v.wrote l.ea (b + delta)).setNZ (b + delta)).advance m.length := by
  obtain ⟨⟨b, w⟩, h₁, h⟩ := andThen_eq_next.mp h
  obtain ⟨l, u, v, h₂, h₃, rfl⟩ := State.modify_next h₁
  cases h
  exact ⟨l, u, b, v, h₂, h₃, rfl⟩

theorem shiftThenLogic_next {f : Shift} {g : Byte → Byte → Byte} {m : MemMode} (h : shiftThenLogic f g m s = .next t) :
    ∃ l u b v, s.locate m = .next (l, u) ∧ u.read l.ea = .next (b, v) ∧
      t = ((((v.wrote l.ea (f b s.c).1).setC (f b s.c).2).setA (g s.a (f b s.c).1)).setNZ (g s.a (f b s.c).1)).advance
        m.length := by
  obtain ⟨⟨b, w⟩, h₁, h⟩ := andThen_eq_next.mp h
  obtain ⟨l, u, v, h₂, h₃, rfl⟩ := State.modify_next h₁
  cases h
  exact ⟨l, u, b, v, h₂, h₃, rfl⟩

theorem rra_next {m : MemMode} (h : rra m s = .next t) :
    ∃ l u b v q, s.locate m = .next (l, u) ∧ u.read l.ea = .next (b, v) ∧
      addResult s.params.decimalMode s.d s.a (ror b s.c).1 (ror b s.c).2 = .next q ∧
      t = ((v.wrote l.ea (ror b s.c).1).setArith q).advance m.length := by
  obtain ⟨⟨b, w⟩, h₁, h⟩ := andThen_eq_next.mp h
  obtain ⟨l, u, v, h₂, h₃, rfl⟩ := State.modify_next h₁
  obtain ⟨q, h₄, h⟩ := andThen_eq_next.mp h
  cases h
  exact ⟨l, u, b, v, q, h₂, h₃, h₄, rfl⟩

theorem isc_next {m : MemMode} (h : isc m s = .next t) :
    ∃ l u b v q, s.locate m = .next (l, u) ∧ u.read l.ea = .next (b, v) ∧
      subResult s.params.decimalMode s.d s.a (b + 1) s.c = .next q ∧
      t = ((v.wrote l.ea (b + 1)).setArith q).advance m.length := by
  obtain ⟨⟨b, w⟩, h₁, h⟩ := andThen_eq_next.mp h
  obtain ⟨l, u, v, h₂, h₃, rfl⟩ := State.modify_next h₁
  obtain ⟨q, h₄, h⟩ := andThen_eq_next.mp h
  cases h
  exact ⟨l, u, b, v, q, h₂, h₃, h₄, rfl⟩

theorem dcp_next {m : MemMode} (h : dcp m s = .next t) :
    ∃ l u b v, s.locate m = .next (l, u) ∧ u.read l.ea = .next (b, v) ∧
      t = ((v.wrote l.ea (b - 1)).setCompare s.a (b - 1)).advance m.length := by
  obtain ⟨⟨b, w⟩, h₁, h⟩ := andThen_eq_next.mp h
  obtain ⟨l, u, v, h₂, h₃, rfl⟩ := State.modify_next h₁
  cases h
  exact ⟨l, u, b, v, h₂, h₃, rfl⟩

/-- Warning 1: an address is found inside its page or not at all (rule R220). -/
theorem locateInPage_next {m : MemMode} {l : Located} (h : locateInPage m s = .next (l, t)) :
    s.locate m = .next (l, t) ∧ l.crossed = false := by
  obtain ⟨⟨l', u⟩, h₁, h⟩ := andThen_eq_next.mp h
  split at h
  · cases h
  · next hc =>
    cases h
    exact ⟨h₁, by simpa using hc⟩

/-- Warning 2: the byte is the masked one or the plain one, and at most one free value is taken (rule R221). -/
theorem unstableByte_eq (v : Byte) (ea : Addr) (s : State) : ∃ w k, unstableByte v ea s = (w, { s with draws := k }) ∧
    (w = v &&& (hi ea + 1) ∨ w = v) ∧ (s.params.rdyNeverLow = true → w = v &&& (hi ea + 1)) := by
  unfold unstableByte
  split
  · exact ⟨_, s.draws, rfl, .inl rfl, fun _ => rfl⟩
  · next h =>
    simp only [State.draw]
    split
    · exact ⟨_, s.draws + 1, rfl, .inl rfl, fun e => absurd e h⟩
    · exact ⟨_, s.draws + 1, rfl, .inr rfl, fun e => absurd e h⟩

theorem unstableStore_next {v : Byte} {m : MemMode} (h : unstableStore v m s = .next t) :
    ∃ l u w k, s.locate m = .next (l, u) ∧ l.crossed = false ∧ (w = v &&& (hi l.ea + 1) ∨ w = v) ∧
      t = (State.wrote l.ea w { u with draws := k }).advance m.length := by
  obtain ⟨⟨l, u⟩, h₁, h⟩ := andThen_eq_next.mp h
  obtain ⟨h₁, hc⟩ := locateInPage_next h₁
  obtain ⟨w, k, hq, hw, -⟩ := unstableByte_eq v l.ea u
  simp only [hq] at h
  obtain ⟨x, h₂, h⟩ := andThen_eq_next.mp h
  obtain ⟨-, rfl⟩ := State.write_next h₂
  cases h
  exact ⟨l, u, w, k, h₁, hc, hw, rfl⟩

theorem tas_next {m : MemMode} (h : tas m s = .next t) :
    ∃ l u w k, s.locate m = .next (l, u) ∧ l.crossed = false ∧
      (w = s.a &&& s.x &&& (hi l.ea + 1) ∨ w = s.a &&& s.x) ∧
      t = (State.wrote l.ea w { u with sp := s.a &&& s.x, draws := k }).advance m.length := by
  obtain ⟨⟨l, u⟩, h₁, h⟩ := andThen_eq_next.mp h
  obtain ⟨h₁, hc⟩ := locateInPage_next h₁
  obtain ⟨w, k, hq, hw, -⟩ := unstableByte_eq (s.a &&& s.x) l.ea (u.setSp (s.a &&& s.x))
  simp only [hq] at h
  obtain ⟨x, h₂, h⟩ := andThen_eq_next.mp h
  obtain ⟨-, rfl⟩ := State.write_next h₂
  cases h
  exact ⟨l, u, w, k, h₁, hc, hw, rfl⟩

theorem las_next {m : MemMode} (h : las m s = .next t) :
    ∃ l u b v, s.locate m = .next (l, u) ∧ l.crossed = false ∧ u.read l.ea = .next (b, v) ∧
      t = ((((v.setA (b &&& s.sp)).setX (b &&& s.sp)).setSp (b &&& s.sp)).setNZ (b &&& s.sp)).advance m.length := by
  obtain ⟨⟨l, u⟩, h₁, h⟩ := andThen_eq_next.mp h
  obtain ⟨h₁, hc⟩ := locateInPage_next h₁
  obtain ⟨⟨b, v⟩, h₂, h⟩ := andThen_eq_next.mp h
  cases h
  refine ⟨l, u, b, v, h₁, hc, h₂, ?_⟩
  have hsp : v.sp = s.sp := by rw [(State.locate_reads h₁).trans (State.read_reads h₂)]
  rw [← hsp]

/-- ARR copies one of the two candidate bits to C and takes at most one free value (rule R210). -/
theorem arrCarry_eq (b : Byte) (s : State) :
    ∃ c k, arrCarry b s = (c, { s with draws := k }) ∧ (c = bit b 6 ∨ c = bit b 7) := by
  unfold arrCarry
  split
  · exact ⟨_, s.draws, rfl, .inl rfl⟩
  · exact ⟨_, s.draws, rfl, .inr rfl⟩
  · refine ⟨_, s.draws + 1, rfl, ?_⟩
    split
    · exact .inl rfl
    · exact .inr rfl

theorem execArr_next {imm : Byte} (h : execArr imm s = .next t) :
    ∃ q k, t = ({ s with draws := k }.setArith q).advance 2 := by
  unfold execArr at h
  split at h
  · obtain ⟨q, -, h⟩ := andThen_eq_next.mp h
    cases h
    exact ⟨q, s.draws, rfl⟩
  · obtain ⟨c, k, hc, -⟩ := arrCarry_eq (s.a &&& imm) s
    simp only [hc] at h
    cases h
    exact ⟨_, k, rfl⟩

theorem illegalNop_next {len : Nat} (h : illegalNop len s = .next t) : t = s.advance len := by
  unfold illegalNop at h
  split at h
  · cases h; rfl
  · cases h

theorem illegalNopAt_next {m : MemMode} (h : illegalNopAt m s = .next t) :
    ∃ l u, s.locate m = .next (l, u) ∧ u.kindAt l.ea ≠ .device true ∧ t = u.advance m.length := by
  unfold illegalNopAt at h
  split at h
  · obtain ⟨⟨l, u⟩, h₁, h⟩ := andThen_eq_next.mp h
    split at h
    · cases h
    · next hk => cases h; exact ⟨l, u, h₁, hk, rfl⟩
  · cases h

theorem execSbcEB_next {imm : Byte} (h : execSbcEB imm s = .next t) : sbc (.immediate imm) s = .next t := by
  unfold execSbcEB at h
  split at h
  · exact h
  · cases h

theorem execPha_next (h : execPha s = .next t) :
    s.kindAt (stackAddr s.sp) ≠ .device true ∧ t = ((s.wrote (stackAddr s.sp) s.a).setSp (s.sp - 1)).advance 1 := by
  obtain ⟨u, h₁, h⟩ := andThen_eq_next.mp h
  obtain ⟨hk, rfl⟩ := State.push_next h₁
  cases h
  exact ⟨hk, rfl⟩

theorem execPhp_next (h : execPhp s = .next t) :
    s.kindAt (stackAddr s.sp) ≠ .device true ∧
      t = ((s.wrote (stackAddr s.sp) (pByte true s)).setSp (s.sp - 1)).advance 1 := by
  obtain ⟨u, h₁, h⟩ := andThen_eq_next.mp h
  obtain ⟨hk, rfl⟩ := State.push_next h₁
  cases h
  exact ⟨hk, rfl⟩

theorem execPla_next (h : execPla s = .next t) :
    ∃ b u, s.pull = .next (b, u) ∧ t = ((u.setA b).setNZ b).advance 1 := by
  obtain ⟨⟨b, u⟩, h₁, h⟩ := andThen_eq_next.mp h
  cases h
  exact ⟨b, u, h₁, rfl⟩

theorem execPlp_next (h : execPlp s = .next t) : ∃ b u, s.pull = .next (b, u) ∧ t = (u.setP b).advance 1 := by
  obtain ⟨⟨b, u⟩, h₁, h⟩ := andThen_eq_next.mp h
  cases h
  exact ⟨b, u, h₁, rfl⟩

theorem execJmpInd_next {a : Addr} (h : execJmpInd a s = .next t) :
    ∃ w u, s.read16Bug a = .next (w, u) ∧ t = u.setPc w := by
  obtain ⟨⟨w, u⟩, h₁, h⟩ := andThen_eq_next.mp h
  cases h
  exact ⟨w, u, h₁, rfl⟩

theorem execJsr_next {a : Addr} (h : execJsr a s = .next t) :
    ∃ u v, s.push (hi (s.pc + 2)) = .next u ∧ u.push (lo (s.pc + 2)) = .next v ∧ t = v.setPc a := by
  obtain ⟨v, h₁, h⟩ := andThen_eq_next.mp h
  obtain ⟨u, h₂, h₃⟩ := State.pushWord_next h₁
  cases h
  exact ⟨u, v, h₂, h₃, rfl⟩

theorem execRts_next (h : execRts s = .next t) : ∃ w u, s.pullWord = .next (w, u) ∧ t = u.setPc (w + 1) := by
  obtain ⟨⟨w, u⟩, h₁, h⟩ := andThen_eq_next.mp h
  cases h
  exact ⟨w, u, h₁, rfl⟩

end Sys2Proof.Machine
end

