-- ==== Sys2Proof/Laws/Cases.lean ====
section
/-!
SUPPORT. The inversion of `exec`: everything an instruction can do, once. To prove something of every next state an instruction can
answer, prove it of each of these next states, in which the starting state stands explicitly.
-/

namespace Sys2Proof.Machine

/-- A word is pulled from two cells: S moves by 2, nothing else but the count of free values. -/
theorem State.pullWord_moves {s t : State} {w : Addr} (h : s.pullWord = .next (w, t)) :
    t = { s with sp := s.sp + 2, draws := t.draws } := by
  obtain ⟨l, u, b, h₁, h₂, -⟩ := State.pullWord_next h
  have e : s.sp + 1 + 1 = s.sp + 2 := by rw [BitVec.add_assoc]; rfl
  have hu : u = { s with sp := s.sp + 1, draws := u.draws } := (State.pull_next h₁).1
  have ht : t = { u with sp := u.sp + 1, draws := t.draws } := (State.pull_next h₂).1
  rw [ht, hu, ← e]

/-- The three pulls of RTI: the flags from the first byte, S three on. -/
theorem State.rti_moves {s u v : State} {p : Byte} {w : Addr} (h₁ : s.pull = .next (p, u))
    (h₂ : (u.setP p).pullWord = .next (w, v)) :
    v = ({ s with sp := s.sp + 3, draws := v.draws } : State).setP p := by
  have e : s.sp + 1 + 2 = s.sp + 3 := by rw [BitVec.add_assoc]; rfl
  have hu : u = { s with sp := s.sp + 1, draws := u.draws } := (State.pull_next h₁).1
  rw [State.pullWord_moves h₂, hu, ← e]
  rfl

/-- Two pushes, one after the other: two cells written, S two less. -/
theorem State.push_twice {s u v : State} {b c : Byte} (h₁ : s.push b = .next u) (h₂ : u.push c = .next v) :
    s.kindAt (stackAddr s.sp) ≠ .device true ∧ s.kindAt (stackAddr (s.sp - 1)) ≠ .device true ∧
      v = { (s.wrote (stackAddr s.sp) b).wrote (stackAddr (s.sp - 1)) c with sp := s.sp - 2 } := by
  obtain ⟨k₁, rfl⟩ := State.push_next h₁
  obtain ⟨k₂, rfl⟩ := State.push_next h₂
  have e : s.sp - 1 - 1 = s.sp - 2 := by bv_omega
  exact ⟨k₁, k₂, by rw [← e]; rfl⟩

/-- Taking an exception: three stack cells written, S three less, I set, PC from the vector (rule R306). -/
theorem State.takeException_moves {s t : State} {vector ret : Addr} {b : Bool} (h : s.takeException vector ret b = .next t) :
    ∃ w k, s.kindAt (stackAddr s.sp) ≠ .device true ∧ s.kindAt (stackAddr (s.sp - 1)) ≠ .device true ∧
      s.kindAt (stackAddr (s.sp - 2)) ≠ .device true ∧
      t = { ((s.wrote (stackAddr s.sp) (hi ret)).wrote (stackAddr (s.sp - 1)) (lo ret)).wrote (stackAddr (s.sp - 2))
        (pByte b s) with sp := s.sp - 3, i := true, pc := w, draws := k } := by
  obtain ⟨u, v, x, w, y, h₁, h₂, h₃, h₄, rfl⟩ := State.takeException_next h
  obtain ⟨k₁, k₂, rfl⟩ := State.push_twice h₁ h₂
  obtain ⟨k₃, rfl⟩ := State.push_next h₃
  have e : s.sp - 2 - 1 = s.sp - 3 := by bv_omega
  refine ⟨w, y.draws, k₁, k₂, k₃, ?_⟩
  rw [State.readPair_reads h₄, ← e]
  rfl

/-- What holds of every next state the forms can answer holds of the one `runForm` answers. -/
theorem runForm_cases {motive : Form → State → Prop} {s : State}
    (c_adc : ∀ r m q k, (∃ u, s.readSource r = .next (m, u)) → addResult s.params.decimalMode s.d s.a m s.c = .next q → motive ⟨.adc, .read r⟩
      (({ s with draws := k }.setArith q).advance r.length))
    (c_sbc : ∀ r m q k, (∃ u, s.readSource r = .next (m, u)) → subResult s.params.decimalMode s.d s.a m s.c = .next q → motive ⟨.sbc, .read r⟩
      (({ s with draws := k }.setArith q).advance r.length))
    (c_cmp : ∀ r m k, (∃ u, s.readSource r = .next (m, u)) → motive ⟨.cmp, .read r⟩
      (({ s with draws := k }.setCompare s.a m).advance r.length))
    (c_cpx : ∀ r m k, (∃ u, s.readSource r = .next (m, u)) → motive ⟨.cpx, .read r⟩
      (({ s with draws := k }.setCompare s.x m).advance r.length))
    (c_cpy : ∀ r m k, (∃ u, s.readSource r = .next (m, u)) → motive ⟨.cpy, .read r⟩
      (({ s with draws := k }.setCompare s.y m).advance r.length))
    (c_and : ∀ r m k, (∃ u, s.readSource r = .next (m, u)) → motive ⟨.and, .read r⟩
      ((({ s with draws := k }.setA (s.a &&& m)).setNZ (s.a &&& m)).advance r.length))
    (c_ora : ∀ r m k, (∃ u, s.readSource r = .next (m, u)) → motive ⟨.ora, .read r⟩
      ((({ s with draws := k }.setA (s.a ||| m)).setNZ (s.a ||| m)).advance r.length))
    (c_eor : ∀ r m k, (∃ u, s.readSource r = .next (m, u)) → motive ⟨.eor, .read r⟩
      ((({ s with draws := k }.setA (s.a ^^^ m)).setNZ (s.a ^^^ m)).advance r.length))
    (c_bit : ∀ r m k, (∃ u, s.readSource r = .next (m, u)) → motive ⟨.bit, .read r⟩
      (({ s with draws := k }.setBitTest m).advance r.length))
    (c_lda : ∀ r m k, (∃ u, s.readSource r = .next (m, u)) → motive ⟨.lda, .read r⟩
      ((({ s with draws := k }.setA m).setNZ m).advance r.length))
    (c_ldx : ∀ r m k, (∃ u, s.readSource r = .next (m, u)) → motive ⟨.ldx, .read r⟩
      ((({ s with draws := k }.setX m).setNZ m).advance r.length))
    (c_ldy : ∀ r m k, (∃ u, s.readSource r = .next (m, u)) → motive ⟨.ldy, .read r⟩
      ((({ s with draws := k }.setY m).setNZ m).advance r.length))
    (c_lax : ∀ r m k, (∃ u, s.readSource r = .next (m, u)) → motive ⟨.lax, .read r⟩
      (((({ s with draws := k }.setA m).setX m).setNZ m).advance r.length))
    (c_sta : ∀ m l k, (∃ u, s.locate m = .next (l, u)) → s.kindAt l.ea ≠ .device true → motive ⟨.sta, .write m⟩
      ((State.wrote l.ea (s.a) { s with draws := k }).advance m.length))
    (c_stx : ∀ m l k, (∃ u, s.locate m = .next (l, u)) → s.kindAt l.ea ≠ .device true → motive ⟨.stx, .write m⟩
      ((State.wrote l.ea (s.x) { s with draws := k }).advance m.length))
    (c_sty : ∀ m l k, (∃ u, s.locate m = .next (l, u)) → s.kindAt l.ea ≠ .device true → motive ⟨.sty, .write m⟩
      ((State.wrote l.ea (s.y) { s with draws := k }).advance m.length))
    (c_sax : ∀ m l k, (∃ u, s.locate m = .next (l, u)) → s.kindAt l.ea ≠ .device true → motive ⟨.sax, .write m⟩
      ((State.wrote l.ea (s.a &&& s.x) { s with draws := k }).advance m.length))
    (c_asl : ∀ m l b k, (∃ u v, s.locate m = .next (l, u) ∧ u.read l.ea = .next (b, v)) → motive ⟨.asl, .modify (.memory m)⟩
      ((((State.wrote l.ea (asl b s.c).1 { s with draws := k }).setC (asl b s.c).2).setNZ (asl b s.c).1).advance m.length))
    (c_lsr : ∀ m l b k, (∃ u v, s.locate m = .next (l, u) ∧ u.read l.ea = .next (b, v)) → motive ⟨.lsr, .modify (.memory m)⟩
      ((((State.wrote l.ea (lsr b s.c).1 { s with draws := k }).setC (lsr b s.c).2).setNZ (lsr b s.c).1).advance m.length))
    (c_rol : ∀ m l b k, (∃ u v, s.locate m = .next (l, u) ∧ u.read l.ea = .next (b, v)) → motive ⟨.rol, .modify (.memory m)⟩
      ((((State.wrote l.ea (rol b s.c).1 { s with draws := k }).setC (rol b s.c).2).setNZ (rol b s.c).1).advance m.length))
    (c_ror : ∀ m l b k, (∃ u v, s.locate m = .next (l, u) ∧ u.read l.ea = .next (b, v)) → motive ⟨.ror, .modify (.memory m)⟩
      ((((State.wrote l.ea (ror b s.c).1 { s with draws := k }).setC (ror b s.c).2).setNZ (ror b s.c).1).advance m.length))
    (c_inc : ∀ m l b k, (∃ u v, s.locate m = .next (l, u) ∧ u.read l.ea = .next (b, v)) → motive ⟨.inc, .modify (.memory m)⟩
      (((State.wrote l.ea (b + 1) { s with draws := k }).setNZ (b + 1)).advance m.length))
    (c_dec : ∀ m l b k, (∃ u v, s.locate m = .next (l, u) ∧ u.read l.ea = .next (b, v)) → motive ⟨.dec, .modify (.memory m)⟩
      (((State.wrote l.ea (b + -1) { s with draws := k }).setNZ (b + -1)).advance m.length))
    (c_slo : ∀ m l b k, (∃ u v, s.locate m = .next (l, u) ∧ u.read l.ea = .next (b, v)) → motive ⟨.slo, .modify (.memory m)⟩
      (((((State.wrote l.ea (asl b s.c).1 { s with draws := k }).setC (asl b s.c).2).setA (s.a ||| (asl b s.c).1)).setNZ
      (s.a ||| (asl b s.c).1)).advance m.length))
    (c_rla : ∀ m l b k, (∃ u v, s.locate m = .next (l, u) ∧ u.read l.ea = .next (b, v)) → motive ⟨.rla, .modify (.memory m)⟩
      (((((State.wrote l.ea (rol b s.c).1 { s with draws := k }).setC (rol b s.c).2).setA (s.a &&& (rol b s.c).1)).setNZ
      (s.a &&& (rol b s.c).1)).advance m.length))
    (c_sre : ∀ m l b k, (∃ u v, s.locate m = .next (l, u) ∧ u.read l.ea = .next (b, v)) → motive ⟨.sre, .modify (.memory m)⟩
      (((((State.wrote l.ea (lsr b s.c).1 { s with draws := k }).setC (lsr b s.c).2).setA (s.a ^^^ (lsr b s.c).1)).setNZ
      (s.a ^^^ (lsr b s.c).1)).advance m.length))
    (c_rra : ∀ m l b q k, (∃ u v, s.locate m = .next (l, u) ∧ u.read l.ea = .next (b, v)) →
      addResult s.params.decimalMode s.d s.a (ror b s.c).1 (ror b s.c).2 = .next q → motive ⟨.rra, .modify (.memory m)⟩
      (((State.wrote l.ea (ror b s.c).1 { s with draws := k }).setArith q).advance m.length))
    (c_isc : ∀ m l b q k, (∃ u v, s.locate m = .next (l, u) ∧ u.read l.ea = .next (b, v)) →
      subResult s.params.decimalMode s.d s.a (b + 1) s.c = .next q → motive ⟨.isc, .modify (.memory m)⟩
      (((State.wrote l.ea (b + 1) { s with draws := k }).setArith q).advance m.length))
    (c_dcp : ∀ m l b k, (∃ u v, s.locate m = .next (l, u) ∧ u.read l.ea = .next (b, v)) → motive ⟨.dcp, .modify (.memory m)⟩
      (((State.wrote l.ea (b - 1) { s with draws := k }).setCompare s.a (b - 1)).advance m.length))
    (c_aslA : motive ⟨.asl, .modify .accumulator⟩ ((((s.setA (asl s.a s.c).1).setC (asl s.a s.c).2).setNZ (asl s.a s.c).1).advance 1))
    (c_lsrA : motive ⟨.lsr, .modify .accumulator⟩ ((((s.setA (lsr s.a s.c).1).setC (lsr s.a s.c).2).setNZ (lsr s.a s.c).1).advance 1))
    (c_rolA : motive ⟨.rol, .modify .accumulator⟩ ((((s.setA (rol s.a s.c).1).setC (rol s.a s.c).2).setNZ (rol s.a s.c).1).advance 1))
    (c_rorA : motive ⟨.ror, .modify .accumulator⟩ ((((s.setA (ror s.a s.c).1).setC (ror s.a s.c).2).setNZ (ror s.a s.c).1).advance 1))
    (c_anc : ∀ b, motive ⟨.anc, .read (.immediate b)⟩
      ((((s.setA (s.a &&& b)).setNZ (s.a &&& b)).setC (bit (s.a &&& b) 7)).advance 2))
    (c_alr : ∀ b, motive ⟨.alr, .read (.immediate b)⟩
      ((((s.setA (lsr (s.a &&& b) s.c).1).setC (lsr (s.a &&& b) s.c).2).setNZ (lsr (s.a &&& b) s.c).1).advance 2))
    (c_sbx : ∀ b, motive ⟨.sbx, .read (.immediate b)⟩
      (((s.setCompare (s.a &&& s.x) b).setX ((s.a &&& s.x) - b)).advance 2))
    (c_arr : ∀ b q k, motive ⟨.arr, .read (.immediate b)⟩
      (({ s with draws := k }.setArith q).advance 2))
    (c_sha : ∀ m l w k, (∃ u, s.locate m = .next (l, u)) → l.crossed = false → motive ⟨.sha, .write m⟩
      ((State.wrote l.ea w { s with draws := k }).advance m.length))
    (c_shx : ∀ m l w k, (∃ u, s.locate m = .next (l, u)) → l.crossed = false → motive ⟨.shx, .write m⟩
      ((State.wrote l.ea w { s with draws := k }).advance m.length))
    (c_shy : ∀ m l w k, (∃ u, s.locate m = .next (l, u)) → l.crossed = false → motive ⟨.shy, .write m⟩
      ((State.wrote l.ea w { s with draws := k }).advance m.length))
    (c_tas : ∀ m l w k, (∃ u, s.locate m = .next (l, u)) → l.crossed = false → motive ⟨.tas, .write m⟩
      ((State.wrote l.ea w { s with sp := s.a &&& s.x, draws := k }).advance m.length))
    (c_las : ∀ m l b k, (∃ u v, s.locate m = .next (l, u) ∧ u.read l.ea = .next (b, v)) → l.crossed = false → motive ⟨.las, .read (.memory m)⟩
      ((((({ s with draws := k }.setA (b &&& s.sp)).setX (b &&& s.sp)).setSp (b &&& s.sp)).setNZ (b &&& s.sp)).advance m.length))
    (c_tax : motive ⟨.tax, .implied⟩ (((s.setX s.a).setNZ s.a).advance 1))
    (c_tay : motive ⟨.tay, .implied⟩ (((s.setY s.a).setNZ s.a).advance 1))
    (c_txa : motive ⟨.txa, .implied⟩ (((s.setA s.x).setNZ s.x).advance 1))
    (c_tya : motive ⟨.tya, .implied⟩ (((s.setA s.y).setNZ s.y).advance 1))
    (c_tsx : motive ⟨.tsx, .implied⟩ (((s.setX s.sp).setNZ s.sp).advance 1))
    (c_inx : motive ⟨.inx, .implied⟩ (((s.setX (s.x + 1)).setNZ (s.x + 1)).advance 1))
    (c_dex : motive ⟨.dex, .implied⟩ (((s.setX (s.x - 1)).setNZ (s.x - 1)).advance 1))
    (c_iny : motive ⟨.iny, .implied⟩ (((s.setY (s.y + 1)).setNZ (s.y + 1)).advance 1))
    (c_dey : motive ⟨.dey, .implied⟩ (((s.setY (s.y - 1)).setNZ (s.y - 1)).advance 1))
    (c_txs : motive ⟨.txs, .implied⟩ ((s.setSp s.x).advance 1))
    (c_clc : motive ⟨.clc, .implied⟩ ((s.setC false).advance 1))
    (c_sec : motive ⟨.sec, .implied⟩ ((s.setC true).advance 1))
    (c_cld : motive ⟨.cld, .implied⟩ ((s.setD false).advance 1))
    (c_sed : motive ⟨.sed, .implied⟩ ((s.setD true).advance 1))
    (c_cli : motive ⟨.cli, .implied⟩ ((s.setI false).advance 1))
    (c_sei : motive ⟨.sei, .implied⟩ ((s.setI true).advance 1))
    (c_clv : motive ⟨.clv, .implied⟩ ((s.setV false).advance 1))
    (c_nop : motive ⟨.nop, .implied⟩ (s.advance 1))
    (c_pha : s.kindAt (stackAddr s.sp) ≠ .device true → motive ⟨.pha, .implied⟩
      (((s.wrote (stackAddr s.sp) s.a).setSp (s.sp - 1)).advance 1))
    (c_php : s.kindAt (stackAddr s.sp) ≠ .device true → motive ⟨.php, .implied⟩
      (((s.wrote (stackAddr s.sp) (pByte true s)).setSp (s.sp - 1)).advance 1))
    (c_pla : ∀ b k, (∃ u, s.pull = .next (b, u)) → motive ⟨.pla, .implied⟩
      (((({ s with sp := s.sp + 1, draws := k } : State).setA b).setNZ b).advance 1))
    (c_plp : ∀ b k, (∃ u, s.pull = .next (b, u)) → motive ⟨.plp, .implied⟩
      ((({ s with sp := s.sp + 1, draws := k } : State).setP b).advance 1))
    (c_bcc : ∀ o, motive ⟨.bcc, .relative o⟩
      (s.setPc (if !s.c then s.pc + 2 + sext16 o else s.pc + 2)))
    (c_bcs : ∀ o, motive ⟨.bcs, .relative o⟩
      (s.setPc (if s.c then s.pc + 2 + sext16 o else s.pc + 2)))
    (c_beq : ∀ o, motive ⟨.beq, .relative o⟩
      (s.setPc (if s.z then s.pc + 2 + sext16 o else s.pc + 2)))
    (c_bne : ∀ o, motive ⟨.bne, .relative o⟩
      (s.setPc (if !s.z then s.pc + 2 + sext16 o else s.pc + 2)))
    (c_bmi : ∀ o, motive ⟨.bmi, .relative o⟩
      (s.setPc (if s.n then s.pc + 2 + sext16 o else s.pc + 2)))
    (c_bpl : ∀ o, motive ⟨.bpl, .relative o⟩
      (s.setPc (if !s.n then s.pc + 2 + sext16 o else s.pc + 2)))
    (c_bvc : ∀ o, motive ⟨.bvc, .relative o⟩
      (s.setPc (if !s.v then s.pc + 2 + sext16 o else s.pc + 2)))
    (c_bvs : ∀ o, motive ⟨.bvs, .relative o⟩
      (s.setPc (if s.v then s.pc + 2 + sext16 o else s.pc + 2)))
    (c_jmpAbs : ∀ a, motive ⟨.jmp, .target a⟩
      (s.setPc a))
    (c_jmpInd : ∀ a w k, (∃ u, s.read16Bug a = .next (w, u)) → motive ⟨.jmp, .indirect a⟩
      ({ s with draws := k }.setPc w))
    (c_jsr : ∀ a, s.kindAt (stackAddr s.sp) ≠ .device true → s.kindAt (stackAddr (s.sp - 1)) ≠ .device true → motive ⟨.jsr, .target a⟩
      ({ (s.wrote (stackAddr s.sp) (hi (s.pc + 2))).wrote (stackAddr (s.sp - 1)) (lo (s.pc + 2)) with sp := s.sp - 2, pc := a }))
    (c_rts : ∀ w k, (∃ u, s.pullWord = .next (w, u)) → motive ⟨.rts, .implied⟩
      (({ s with sp := s.sp + 2, draws := k } : State).setPc (w + 1)))
    (c_rti : ∀ p w k, motive ⟨.rti, .implied⟩
      ((({ s with sp := s.sp + 3, draws := k } : State).setP p).setPc w))
    (c_brk : ∀ w k, s.kindAt (stackAddr s.sp) ≠ .device true → s.kindAt (stackAddr (s.sp - 1)) ≠ .device true →
      s.kindAt (stackAddr (s.sp - 2)) ≠ .device true → motive ⟨.brk, .implied⟩
      ({ ((s.wrote (stackAddr s.sp) (hi (s.pc + 2))).wrote (stackAddr (s.sp - 1)) (lo (s.pc + 2))).wrote
        (stackAddr (s.sp - 2)) (pByte true s) with sp := s.sp - 3, i := true, pc := w, draws := k }))
    (c_jam : motive ⟨.jam, .implied⟩ s.setJammed)
    (c_illegalNop : s.params.admitMatrixOnly = true → motive ⟨.illegalNop, .implied⟩
      (s.advance 1))
    (c_illegalNopImm : ∀ b, s.params.admitMatrixOnly = true → motive ⟨.illegalNop, .read (.immediate b)⟩
      (s.advance 2))
    (c_illegalNopMem : ∀ m l k, (∃ u, s.locate m = .next (l, u)) → s.kindAt l.ea ≠ .device true →
      s.params.admitMatrixOnly = true → motive ⟨.illegalNop, .read (.memory m)⟩
      ({ s with draws := k }.advance m.length))
    (c_sbcEB : ∀ b q, s.params.admitMatrixOnly = true → subResult s.params.decimalMode s.d s.a b s.c = .next q → motive ⟨.sbcEB, .read (.immediate b)⟩
      ((s.setArith q).advance 2))
    {f : Form} {t : State} (h : runForm f s = .next t) : motive f t := by
  obtain ⟨op, o⟩ := f
  match op, o, h with
  | .adc, .read r, h =>
    obtain ⟨m, u, q, h₁, h₂, rfl⟩ := adc_next h
    rw [State.readSource_reads h₁]
    exact c_adc r m q u.draws ⟨u, h₁⟩ h₂
  | .sbc, .read r, h =>
    obtain ⟨m, u, q, h₁, h₂, rfl⟩ := sbc_next h
    rw [State.readSource_reads h₁]
    exact c_sbc r m q u.draws ⟨u, h₁⟩ h₂
  | .cmp, .read r, h =>
    obtain ⟨m, u, h₁, rfl⟩ := compareWith_next h
    rw [State.readSource_reads h₁]
    exact c_cmp r m u.draws ⟨u, h₁⟩
  | .cpx, .read r, h =>
    obtain ⟨m, u, h₁, rfl⟩ := compareWith_next h
    rw [State.readSource_reads h₁]
    exact c_cpx r m u.draws ⟨u, h₁⟩
  | .cpy, .read r, h =>
    obtain ⟨m, u, h₁, rfl⟩ := compareWith_next h
    rw [State.readSource_reads h₁]
    exact c_cpy r m u.draws ⟨u, h₁⟩
  | .and, .read r, h =>
    obtain ⟨m, u, h₁, rfl⟩ := logic_next h
    rw [State.readSource_reads h₁]
    exact c_and r m u.draws ⟨u, h₁⟩
  | .ora, .read r, h =>
    obtain ⟨m, u, h₁, rfl⟩ := logic_next h
    rw [State.readSource_reads h₁]
    exact c_ora r m u.draws ⟨u, h₁⟩
  | .eor, .read r, h =>
    obtain ⟨m, u, h₁, rfl⟩ := logic_next h
    rw [State.readSource_reads h₁]
    exact c_eor r m u.draws ⟨u, h₁⟩
  | .bit, .read r, h =>
    obtain ⟨m, u, h₁, rfl⟩ := bitTest_next h
    rw [State.readSource_reads h₁]
    exact c_bit r m u.draws ⟨u, h₁⟩
  | .lda, .read r, h =>
    obtain ⟨m, u, h₁, rfl⟩ := load_next h
    rw [State.readSource_reads h₁]
    exact c_lda r m u.draws ⟨u, h₁⟩
  | .ldx, .read r, h =>
    obtain ⟨m, u, h₁, rfl⟩ := load_next h
    rw [State.readSource_reads h₁]
    exact c_ldx r m u.draws ⟨u, h₁⟩
  | .ldy, .read r, h =>
    obtain ⟨m, u, h₁, rfl⟩ := load_next h
    rw [State.readSource_reads h₁]
    exact c_ldy r m u.draws ⟨u, h₁⟩
  | .lax, .read r, h =>
    obtain ⟨m, u, h₁, rfl⟩ := lax_next h
    rw [State.readSource_reads h₁]
    exact c_lax r m u.draws ⟨u, h₁⟩
  | .sta, .write m, h =>
    obtain ⟨l, u, h₁, hk, rfl⟩ := storeByte_next h
    rw [(State.locate_reads h₁).kindAt] at hk
    rw [State.locate_reads h₁]
    exact c_sta m l u.draws ⟨u, h₁⟩ hk
  | .stx, .write m, h =>
    obtain ⟨l, u, h₁, hk, rfl⟩ := storeByte_next h
    rw [(State.locate_reads h₁).kindAt] at hk
    rw [State.locate_reads h₁]
    exact c_stx m l u.draws ⟨u, h₁⟩ hk
  | .sty, .write m, h =>
    obtain ⟨l, u, h₁, hk, rfl⟩ := storeByte_next h
    rw [(State.locate_reads h₁).kindAt] at hk
    rw [State.locate_reads h₁]
    exact c_sty m l u.draws ⟨u, h₁⟩ hk
  | .sax, .write m, h =>
    obtain ⟨l, u, h₁, hk, rfl⟩ := storeByte_next h
    rw [(State.locate_reads h₁).kindAt] at hk
    rw [State.locate_reads h₁]
    exact c_sax m l u.draws ⟨u, h₁⟩ hk
  | .asl, .modify (.memory m), h =>
    obtain ⟨l, u, b, v, h₁, h₂, rfl⟩ := shiftPlace_memory_next h
    rw [(State.locate_reads h₁).trans (State.read_reads h₂)]
    exact c_asl m l b v.draws ⟨u, v, h₁, h₂⟩
  | .lsr, .modify (.memory m), h =>
    obtain ⟨l, u, b, v, h₁, h₂, rfl⟩ := shiftPlace_memory_next h
    rw [(State.locate_reads h₁).trans (State.read_reads h₂)]
    exact c_lsr m l b v.draws ⟨u, v, h₁, h₂⟩
  | .rol, .modify (.memory m), h =>
    obtain ⟨l, u, b, v, h₁, h₂, rfl⟩ := shiftPlace_memory_next h
    rw [(State.locate_reads h₁).trans (State.read_reads h₂)]
    exact c_rol m l b v.draws ⟨u, v, h₁, h₂⟩
  | .ror, .modify (.memory m), h =>
    obtain ⟨l, u, b, v, h₁, h₂, rfl⟩ := shiftPlace_memory_next h
    rw [(State.locate_reads h₁).trans (State.read_reads h₂)]
    exact c_ror m l b v.draws ⟨u, v, h₁, h₂⟩
  | .inc, .modify (.memory m), h =>
    obtain ⟨l, u, b, v, h₁, h₂, rfl⟩ := addToMemory_next h
    rw [(State.locate_reads h₁).trans (State.read_reads h₂)]
    exact c_inc m l b v.draws ⟨u, v, h₁, h₂⟩
  | .dec, .modify (.memory m), h =>
    obtain ⟨l, u, b, v, h₁, h₂, rfl⟩ := addToMemory_next h
    rw [(State.locate_reads h₁).trans (State.read_reads h₂)]
    exact c_dec m l b v.draws ⟨u, v, h₁, h₂⟩
  | .slo, .modify (.memory m), h =>
    obtain ⟨l, u, b, v, h₁, h₂, rfl⟩ := shiftThenLogic_next h
    rw [(State.locate_reads h₁).trans (State.read_reads h₂)]
    exact c_slo m l b v.draws ⟨u, v, h₁, h₂⟩
  | .rla, .modify (.memory m), h =>
    obtain ⟨l, u, b, v, h₁, h₂, rfl⟩ := shiftThenLogic_next h
    rw [(State.locate_reads h₁).trans (State.read_reads h₂)]
    exact c_rla m l b v.draws ⟨u, v, h₁, h₂⟩
  | .sre, .modify (.memory m), h =>
    obtain ⟨l, u, b, v, h₁, h₂, rfl⟩ := shiftThenLogic_next h
    rw [(State.locate_reads h₁).trans (State.read_reads h₂)]
    exact c_sre m l b v.draws ⟨u, v, h₁, h₂⟩
  | .rra, .modify (.memory m), h =>
    obtain ⟨l, u, b, v, q, h₁, h₂, h₃, rfl⟩ := rra_next h
    rw [(State.locate_reads h₁).trans (State.read_reads h₂)]
    exact c_rra m l b q v.draws ⟨u, v, h₁, h₂⟩ h₃
  | .isc, .modify (.memory m), h =>
    obtain ⟨l, u, b, v, q, h₁, h₂, h₃, rfl⟩ := isc_next h
    rw [(State.locate_reads h₁).trans (State.read_reads h₂)]
    exact c_isc m l b q v.draws ⟨u, v, h₁, h₂⟩ h₃
  | .dcp, .modify (.memory m), h =>
    obtain ⟨l, u, b, v, h₁, h₂, rfl⟩ := dcp_next h
    rw [(State.locate_reads h₁).trans (State.read_reads h₂)]
    exact c_dcp m l b v.draws ⟨u, v, h₁, h₂⟩
  | .asl, .modify .accumulator, h =>
    cases h
    exact c_aslA
  | .lsr, .modify .accumulator, h =>
    cases h
    exact c_lsrA
  | .rol, .modify .accumulator, h =>
    cases h
    exact c_rolA
  | .ror, .modify .accumulator, h =>
    cases h
    exact c_rorA
  | .anc, .read (.immediate b), h =>
    cases h
    exact c_anc b
  | .alr, .read (.immediate b), h =>
    cases h
    exact c_alr b
  | .sbx, .read (.immediate b), h =>
    cases h
    exact c_sbx b
  | .arr, .read (.immediate b), h =>
    obtain ⟨q, k, rfl⟩ := execArr_next h
    exact c_arr b q k
  | .sha, .write m, h =>
    obtain ⟨l, u, w, k, h₁, hc, -, rfl⟩ := unstableStore_next h
    rw [State.locate_reads h₁]
    exact c_sha m l w k ⟨u, h₁⟩ hc
  | .shx, .write m, h =>
    obtain ⟨l, u, w, k, h₁, hc, -, rfl⟩ := unstableStore_next h
    rw [State.locate_reads h₁]
    exact c_shx m l w k ⟨u, h₁⟩ hc
  | .shy, .write m, h =>
    obtain ⟨l, u, w, k, h₁, hc, -, rfl⟩ := unstableStore_next h
    rw [State.locate_reads h₁]
    exact c_shy m l w k ⟨u, h₁⟩ hc
  | .tas, .write m, h =>
    obtain ⟨l, u, w, k, h₁, hc, -, rfl⟩ := tas_next h
    rw [State.locate_reads h₁]
    exact c_tas m l w k ⟨u, h₁⟩ hc
  | .las, .read (.memory m), h =>
    obtain ⟨l, u, b, v, h₁, hc, h₂, rfl⟩ := las_next h
    rw [(State.locate_reads h₁).trans (State.read_reads h₂)]
    exact c_las m l b v.draws ⟨u, v, h₁, h₂⟩ hc
  | .tax, .implied, h =>
    cases h
    exact c_tax
  | .tay, .implied, h =>
    cases h
    exact c_tay
  | .txa, .implied, h =>
    cases h
    exact c_txa
  | .tya, .implied, h =>
    cases h
    exact c_tya
  | .tsx, .implied, h =>
    cases h
    exact c_tsx
  | .inx, .implied, h =>
    cases h
    exact c_inx
  | .dex, .implied, h =>
    cases h
    exact c_dex
  | .iny, .implied, h =>
    cases h
    exact c_iny
  | .dey, .implied, h =>
    cases h
    exact c_dey
  | .txs, .implied, h =>
    cases h
    exact c_txs
  | .clc, .implied, h =>
    cases h
    exact c_clc
  | .sec, .implied, h =>
    cases h
    exact c_sec
  | .cld, .implied, h =>
    cases h
    exact c_cld
  | .sed, .implied, h =>
    cases h
    exact c_sed
  | .cli, .implied, h =>
    cases h
    exact c_cli
  | .sei, .implied, h =>
    cases h
    exact c_sei
  | .clv, .implied, h =>
    cases h
    exact c_clv
  | .nop, .implied, h =>
    cases h
    exact c_nop
  | .pha, .implied, h =>
    obtain ⟨hk, rfl⟩ := execPha_next h
    exact c_pha hk
  | .php, .implied, h =>
    obtain ⟨hk, rfl⟩ := execPhp_next h
    exact c_php hk
  | .pla, .implied, h =>
    obtain ⟨b, u, h₁, rfl⟩ := execPla_next h
    rw [(State.pull_next h₁).1]
    exact c_pla b u.draws ⟨u, h₁⟩
  | .plp, .implied, h =>
    obtain ⟨b, u, h₁, rfl⟩ := execPlp_next h
    rw [(State.pull_next h₁).1]
    exact c_plp b u.draws ⟨u, h₁⟩
  | .bcc, .relative o, h =>
    cases h
    exact c_bcc o
  | .bcs, .relative o, h =>
    cases h
    exact c_bcs o
  | .beq, .relative o, h =>
    cases h
    exact c_beq o
  | .bne, .relative o, h =>
    cases h
    exact c_bne o
  | .bmi, .relative o, h =>
    cases h
    exact c_bmi o
  | .bpl, .relative o, h =>
    cases h
    exact c_bpl o
  | .bvc, .relative o, h =>
    cases h
    exact c_bvc o
  | .bvs, .relative o, h =>
    cases h
    exact c_bvs o
  | .jmp, .target a, h =>
    cases h
    exact c_jmpAbs a
  | .jmp, .indirect a, h =>
    obtain ⟨w, u, h₁, rfl⟩ := execJmpInd_next h
    rw [State.readPair_reads h₁]
    exact c_jmpInd a w u.draws ⟨u, h₁⟩
  | .jsr, .target a, h =>
    obtain ⟨u, v, h₁, h₂, rfl⟩ := execJsr_next h
    obtain ⟨k₁, k₂, rfl⟩ := State.push_twice h₁ h₂
    exact c_jsr a k₁ k₂
  | .rts, .implied, h =>
    obtain ⟨w, u, h₁, rfl⟩ := execRts_next h
    rw [State.pullWord_moves h₁]
    exact c_rts w u.draws ⟨u, h₁⟩
  | .rti, .implied, h =>
    obtain ⟨p, u, w, v, h₁, h₂, rfl⟩ := State.returnFromException_next h
    rw [State.rti_moves h₁ h₂]
    exact c_rti p w v.draws
  | .brk, .implied, h =>
    obtain ⟨w, k, k₁, k₂, k₃, rfl⟩ := State.takeException_moves h
    exact c_brk w k k₁ k₂ k₃
  | .jam, .implied, h =>
    cases h
    exact c_jam
  | .illegalNop, .implied, h =>
    by_cases ha : s.params.admitMatrixOnly = true
    · rw [illegalNop_next h]
      exact c_illegalNop ha
    · simp only [runForm, illegalNop, if_neg ha] at h
      cases h
  | .illegalNop, .read (.immediate b), h =>
    by_cases ha : s.params.admitMatrixOnly = true
    · rw [illegalNop_next h]
      exact c_illegalNopImm b ha
    · simp only [runForm, illegalNop, if_neg ha] at h
      cases h
  | .illegalNop, .read (.memory m), h =>
    by_cases ha : s.params.admitMatrixOnly = true
    · obtain ⟨l, u, h₁, hk, rfl⟩ := illegalNopAt_next h
      rw [(State.locate_reads h₁).kindAt] at hk
      rw [State.locate_reads h₁]
      exact c_illegalNopMem m l u.draws ⟨u, h₁⟩ hk ha
    · simp only [runForm, illegalNopAt, if_neg ha] at h
      cases h
  | .sbcEB, .read (.immediate b), h =>
    by_cases ha : s.params.admitMatrixOnly = true
    · obtain ⟨m, u, q, h₁, h₂, rfl⟩ := sbc_next (execSbcEB_next h)
      cases h₁
      exact c_sbcEB b q ha h₂
    · simp only [runForm, execSbcEB, if_neg ha] at h
      cases h
  | .brk, .read (.immediate _), h => cases h
  | .brk, .read (.memory _), h => cases h
  | .brk, .write _, h => cases h
  | .brk, .modify .accumulator, h => cases h
  | .brk, .modify (.memory _), h => cases h
  | .brk, .target _, h => cases h
  | .brk, .indirect _, h => cases h
  | .brk, .relative _, h => cases h
  | .ora, .implied, h => cases h
  | .ora, .write _, h => cases h
  | .ora, .modify .accumulator, h => cases h
  | .ora, .modify (.memory _), h => cases h
  | .ora, .target _, h => cases h
  | .ora, .indirect _, h => cases h
  | .ora, .relative _, h => cases h
  | .jam, .read (.immediate _), h => cases h
  | .jam, .read (.memory _), h => cases h
  | .jam, .write _, h => cases h
  | .jam, .modify .accumulator, h => cases h
  | .jam, .modify (.memory _), h => cases h
  | .jam, .target _, h => cases h
  | .jam, .indirect _, h => cases h
  | .jam, .relative _, h => cases h
  | .slo, .implied, h => cases h
  | .slo, .read (.immediate _), h => cases h
  | .slo, .read (.memory _), h => cases h
  | .slo, .write _, h => cases h
  | .slo, .modify .accumulator, h => cases h
  | .slo, .target _, h => cases h
  | .slo, .indirect _, h => cases h
  | .slo, .relative _, h => cases h
  | .illegalNop, .write _, h => cases h
  | .illegalNop, .modify .accumulator, h => cases h
  | .illegalNop, .modify (.memory _), h => cases h
  | .illegalNop, .target _, h => cases h
  | .illegalNop, .indirect _, h => cases h
  | .illegalNop, .relative _, h => cases h
  | .asl, .implied, h => cases h
  | .asl, .read (.immediate _), h => cases h
  | .asl, .read (.memory _), h => cases h
  | .asl, .write _, h => cases h
  | .asl, .target _, h => cases h
  | .asl, .indirect _, h => cases h
  | .asl, .relative _, h => cases h
  | .php, .read (.immediate _), h => cases h
  | .php, .read (.memory _), h => cases h
  | .php, .write _, h => cases h
  | .php, .modify .accumulator, h => cases h
  | .php, .modify (.memory _), h => cases h
  | .php, .target _, h => cases h
  | .php, .indirect _, h => cases h
  | .php, .relative _, h => cases h
  | .anc, .implied, h => cases h
  | .anc, .read (.memory _), h => cases h
  | .anc, .write _, h => cases h
  | .anc, .modify .accumulator, h => cases h
  | .anc, .modify (.memory _), h => cases h
  | .anc, .target _, h => cases h
  | .anc, .indirect _, h => cases h
  | .anc, .relative _, h => cases h
  | .bpl, .implied, h => cases h
  | .bpl, .read (.immediate _), h => cases h
  | .bpl, .read (.memory _), h => cases h
  | .bpl, .write _, h => cases h
  | .bpl, .modify .accumulator, h => cases h
  | .bpl, .modify (.memory _), h => cases h
  | .bpl, .target _, h => cases h
  | .bpl, .indirect _, h => cases h
  | .clc, .read (.immediate _), h => cases h
  | .clc, .read (.memory _), h => cases h
  | .clc, .write _, h => cases h
  | .clc, .modify .accumulator, h => cases h
  | .clc, .modify (.memory _), h => cases h
  | .clc, .target _, h => cases h
  | .clc, .indirect _, h => cases h
  | .clc, .relative _, h => cases h
  | .jsr, .implied, h => cases h
  | .jsr, .read (.immediate _), h => cases h
  | .jsr, .read (.memory _), h => cases h
  | .jsr, .write _, h => cases h
  | .jsr, .modify .accumulator, h => cases h
  | .jsr, .modify (.memory _), h => cases h
  | .jsr, .indirect _, h => cases h
  | .jsr, .relative _, h => cases h
  | .and, .implied, h => cases h
  | .and, .write _, h => cases h
  | .and, .modify .accumulator, h => cases h
  | .and, .modify (.memory _), h => cases h
  | .and, .target _, h => cases h
  | .and, .indirect _, h => cases h
  | .and, .relative _, h => cases h
  | .rla, .implied, h => cases h
  | .rla, .read (.immediate _), h => cases h
  | .rla, .read (.memory _), h => cases h
  | .rla, .write _, h => cases h
  | .rla, .modify .accumulator, h => cases h
  | .rla, .target _, h => cases h
  | .rla, .indirect _, h => cases h
  | .rla, .relative _, h => cases h
  | .bit, .implied, h => cases h
  | .bit, .write _, h => cases h
  | .bit, .modify .accumulator, h => cases h
  | .bit, .modify (.memory _), h => cases h
  | .bit, .target _, h => cases h
  | .bit, .indirect _, h => cases h
  | .bit, .relative _, h => cases h
  | .rol, .implied, h => cases h
  | .rol, .read (.immediate _), h => cases h
  | .rol, .read (.memory _), h => cases h
  | .rol, .write _, h => cases h
  | .rol, .target _, h => cases h
  | .rol, .indirect _, h => cases h
  | .rol, .relative _, h => cases h
  | .plp, .read (.immediate _), h => cases h
  | .plp, .read (.memory _), h => cases h
  | .plp, .write _, h => cases h
  | .plp, .modify .accumulator, h => cases h
  | .plp, .modify (.memory _), h => cases h
  | .plp, .target _, h => cases h
  | .plp, .indirect _, h => cases h
  | .plp, .relative _, h => cases h
  | .bmi, .implied, h => cases h
  | .bmi, .read (.immediate _), h => cases h
  | .bmi, .read (.memory _), h => cases h
  | .bmi, .write _, h => cases h
  | .bmi, .modify .accumulator, h => cases h
  | .bmi, .modify (.memory _), h => cases h
  | .bmi, .target _, h => cases h
  | .bmi, .indirect _, h => cases h
  | .sec, .read (.immediate _), h => cases h
  | .sec, .read (.memory _), h => cases h
  | .sec, .write _, h => cases h
  | .sec, .modify .accumulator, h => cases h
  | .sec, .modify (.memory _), h => cases h
  | .sec, .target _, h => cases h
  | .sec, .indirect _, h => cases h
  | .sec, .relative _, h => cases h
  | .rti, .read (.immediate _), h => cases h
  | .rti, .read (.memory _), h => cases h
  | .rti, .write _, h => cases h
  | .rti, .modify .accumulator, h => cases h
  | .rti, .modify (.memory _), h => cases h
  | .rti, .target _, h => cases h
  | .rti, .indirect _, h => cases h
  | .rti, .relative _, h => cases h
  | .eor, .implied, h => cases h
  | .eor, .write _, h => cases h
  | .eor, .modify .accumulator, h => cases h
  | .eor, .modify (.memory _), h => cases h
  | .eor, .target _, h => cases h
  | .eor, .indirect _, h => cases h
  | .eor, .relative _, h => cases h
  | .sre, .implied, h => cases h
  | .sre, .read (.immediate _), h => cases h
  | .sre, .read (.memory _), h => cases h
  | .sre, .write _, h => cases h
  | .sre, .modify .accumulator, h => cases h
  | .sre, .target _, h => cases h
  | .sre, .indirect _, h => cases h
  | .sre, .relative _, h => cases h
  | .lsr, .implied, h => cases h
  | .lsr, .read (.immediate _), h => cases h
  | .lsr, .read (.memory _), h => cases h
  | .lsr, .write _, h => cases h
  | .lsr, .target _, h => cases h
  | .lsr, .indirect _, h => cases h
  | .lsr, .relative _, h => cases h
  | .pha, .read (.immediate _), h => cases h
  | .pha, .read (.memory _), h => cases h
  | .pha, .write _, h => cases h
  | .pha, .modify .accumulator, h => cases h
  | .pha, .modify (.memory _), h => cases h
  | .pha, .target _, h => cases h
  | .pha, .indirect _, h => cases h
  | .pha, .relative _, h => cases h
  | .alr, .implied, h => cases h
  | .alr, .read (.memory _), h => cases h
  | .alr, .write _, h => cases h
  | .alr, .modify .accumulator, h => cases h
  | .alr, .modify (.memory _), h => cases h
  | .alr, .target _, h => cases h
  | .alr, .indirect _, h => cases h
  | .alr, .relative _, h => cases h
  | .jmp, .implied, h => cases h
  | .jmp, .read (.immediate _), h => cases h
  | .jmp, .read (.memory _), h => cases h
  | .jmp, .write _, h => cases h
  | .jmp, .modify .accumulator, h => cases h
  | .jmp, .modify (.memory _), h => cases h
  | .jmp, .relative _, h => cases h
  | .bvc, .implied, h => cases h
  | .bvc, .read (.immediate _), h => cases h
  | .bvc, .read (.memory _), h => cases h
  | .bvc, .write _, h => cases h
  | .bvc, .modify .accumulator, h => cases h
  | .bvc, .modify (.memory _), h => cases h
  | .bvc, .target _, h => cases h
  | .bvc, .indirect _, h => cases h
  | .cli, .read (.immediate _), h => cases h
  | .cli, .read (.memory _), h => cases h
  | .cli, .write _, h => cases h
  | .cli, .modify .accumulator, h => cases h
  | .cli, .modify (.memory _), h => cases h
  | .cli, .target _, h => cases h
  | .cli, .indirect _, h => cases h
  | .cli, .relative _, h => cases h
  | .rts, .read (.immediate _), h => cases h
  | .rts, .read (.memory _), h => cases h
  | .rts, .write _, h => cases h
  | .rts, .modify .accumulator, h => cases h
  | .rts, .modify (.memory _), h => cases h
  | .rts, .target _, h => cases h
  | .rts, .indirect _, h => cases h
  | .rts, .relative _, h => cases h
  | .adc, .implied, h => cases h
  | .adc, .write _, h => cases h
  | .adc, .modify .accumulator, h => cases h
  | .adc, .modify (.memory _), h => cases h
  | .adc, .target _, h => cases h
  | .adc, .indirect _, h => cases h
  | .adc, .relative _, h => cases h
  | .rra, .implied, h => cases h
  | .rra, .read (.immediate _), h => cases h
  | .rra, .read (.memory _), h => cases h
  | .rra, .write _, h => cases h
  | .rra, .modify .accumulator, h => cases h
  | .rra, .target _, h => cases h
  | .rra, .indirect _, h => cases h
  | .rra, .relative _, h => cases h
  | .ror, .implied, h => cases h
  | .ror, .read (.immediate _), h => cases h
  | .ror, .read (.memory _), h => cases h
  | .ror, .write _, h => cases h
  | .ror, .target _, h => cases h
  | .ror, .indirect _, h => cases h
  | .ror, .relative _, h => cases h
  | .pla, .read (.immediate _), h => cases h
  | .pla, .read (.memory _), h => cases h
  | .pla, .write _, h => cases h
  | .pla, .modify .accumulator, h => cases h
  | .pla, .modify (.memory _), h => cases h
  | .pla, .target _, h => cases h
  | .pla, .indirect _, h => cases h
  | .pla, .relative _, h => cases h
  | .arr, .implied, h => cases h
  | .arr, .read (.memory _), h => cases h
  | .arr, .write _, h => cases h
  | .arr, .modify .accumulator, h => cases h
  | .arr, .modify (.memory _), h => cases h
  | .arr, .target _, h => cases h
  | .arr, .indirect _, h => cases h
  | .arr, .relative _, h => cases h
  | .bvs, .implied, h => cases h
  | .bvs, .read (.immediate _), h => cases h
  | .bvs, .read (.memory _), h => cases h
  | .bvs, .write _, h => cases h
  | .bvs, .modify .accumulator, h => cases h
  | .bvs, .modify (.memory _), h => cases h
  | .bvs, .target _, h => cases h
  | .bvs, .indirect _, h => cases h
  | .sei, .read (.immediate _), h => cases h
  | .sei, .read (.memory _), h => cases h
  | .sei, .write _, h => cases h
  | .sei, .modify .accumulator, h => cases h
  | .sei, .modify (.memory _), h => cases h
  | .sei, .target _, h => cases h
  | .sei, .indirect _, h => cases h
  | .sei, .relative _, h => cases h
  | .sta, .implied, h => cases h
  | .sta, .read (.immediate _), h => cases h
  | .sta, .read (.memory _), h => cases h
  | .sta, .modify .accumulator, h => cases h
  | .sta, .modify (.memory _), h => cases h
  | .sta, .target _, h => cases h
  | .sta, .indirect _, h => cases h
  | .sta, .relative _, h => cases h
  | .sax, .implied, h => cases h
  | .sax, .read (.immediate _), h => cases h
  | .sax, .read (.memory _), h => cases h
  | .sax, .modify .accumulator, h => cases h
  | .sax, .modify (.memory _), h => cases h
  | .sax, .target _, h => cases h
  | .sax, .indirect _, h => cases h
  | .sax, .relative _, h => cases h
  | .sty, .implied, h => cases h
  | .sty, .read (.immediate _), h => cases h
  | .sty, .read (.memory _), h => cases h
  | .sty, .modify .accumulator, h => cases h
  | .sty, .modify (.memory _), h => cases h
  | .sty, .target _, h => cases h
  | .sty, .indirect _, h => cases h
  | .sty, .relative _, h => cases h
  | .stx, .implied, h => cases h
  | .stx, .read (.immediate _), h => cases h
  | .stx, .read (.memory _), h => cases h
  | .stx, .modify .accumulator, h => cases h
  | .stx, .modify (.memory _), h => cases h
  | .stx, .target _, h => cases h
  | .stx, .indirect _, h => cases h
  | .stx, .relative _, h => cases h
  | .dey, .read (.immediate _), h => cases h
  | .dey, .read (.memory _), h => cases h
  | .dey, .write _, h => cases h
  | .dey, .modify .accumulator, h => cases h
  | .dey, .modify (.memory _), h => cases h
  | .dey, .target _, h => cases h
  | .dey, .indirect _, h => cases h
  | .dey, .relative _, h => cases h
  | .txa, .read (.immediate _), h => cases h
  | .txa, .read (.memory _), h => cases h
  | .txa, .write _, h => cases h
  | .txa, .modify .accumulator, h => cases h
  | .txa, .modify (.memory _), h => cases h
  | .txa, .target _, h => cases h
  | .txa, .indirect _, h => cases h
  | .txa, .relative _, h => cases h
  | .ane, .implied, h => cases h
  | .ane, .read (.immediate _), h => cases h
  | .ane, .read (.memory _), h => cases h
  | .ane, .write _, h => cases h
  | .ane, .modify .accumulator, h => cases h
  | .ane, .modify (.memory _), h => cases h
  | .ane, .target _, h => cases h
  | .ane, .indirect _, h => cases h
  | .ane, .relative _, h => cases h
  | .bcc, .implied, h => cases h
  | .bcc, .read (.immediate _), h => cases h
  | .bcc, .read (.memory _), h => cases h
  | .bcc, .write _, h => cases h
  | .bcc, .modify .accumulator, h => cases h
  | .bcc, .modify (.memory _), h => cases h
  | .bcc, .target _, h => cases h
  | .bcc, .indirect _, h => cases h
  | .sha, .implied, h => cases h
  | .sha, .read (.immediate _), h => cases h
  | .sha, .read (.memory _), h => cases h
  | .sha, .modify .accumulator, h => cases h
  | .sha, .modify (.memory _), h => cases h
  | .sha, .target _, h => cases h
  | .sha, .indirect _, h => cases h
  | .sha, .relative _, h => cases h
  | .tya, .read (.immediate _), h => cases h
  | .tya, .read (.memory _), h => cases h
  | .tya, .write _, h => cases h
  | .tya, .modify .accumulator, h => cases h
  | .tya, .modify (.memory _), h => cases h
  | .tya, .target _, h => cases h
  | .tya, .indirect _, h => cases h
  | .tya, .relative _, h => cases h
  | .txs, .read (.immediate _), h => cases h
  | .txs, .read (.memory _), h => cases h
  | .txs, .write _, h => cases h
  | .txs, .modify .accumulator, h => cases h
  | .txs, .modify (.memory _), h => cases h
  | .txs, .target _, h => cases h
  | .txs, .indirect _, h => cases h
  | .txs, .relative _, h => cases h
  | .tas, .implied, h => cases h
  | .tas, .read (.immediate _), h => cases h
  | .tas, .read (.memory _), h => cases h
  | .tas, .modify .accumulator, h => cases h
  | .tas, .modify (.memory _), h => cases h
  | .tas, .target _, h => cases h
  | .tas, .indirect _, h => cases h
  | .tas, .relative _, h => cases h
  | .shy, .implied, h => cases h
  | .shy, .read (.immediate _), h => cases h
  | .shy, .read (.memory _), h => cases h
  | .shy, .modify .accumulator, h => cases h
  | .shy, .modify (.memory _), h => cases h
  | .shy, .target _, h => cases h
  | .shy, .indirect _, h => cases h
  | .shy, .relative _, h => cases h
  | .shx, .implied, h => cases h
  | .shx, .read (.immediate _), h => cases h
  | .shx, .read (.memory _), h => cases h
  | .shx, .modify .accumulator, h => cases h
  | .shx, .modify (.memory _), h => cases h
  | .shx, .target _, h => cases h
  | .shx, .indirect _, h => cases h
  | .shx, .relative _, h => cases h
  | .ldy, .implied, h => cases h
  | .ldy, .write _, h => cases h
  | .ldy, .modify .accumulator, h => cases h
  | .ldy, .modify (.memory _), h => cases h
  | .ldy, .target _, h => cases h
  | .ldy, .indirect _, h => cases h
  | .ldy, .relative _, h => cases h
  | .lda, .implied, h => cases h
  | .lda, .write _, h => cases h
  | .lda, .modify .accumulator, h => cases h
  | .lda, .modify (.memory _), h => cases h
  | .lda, .target _, h => cases h
  | .lda, .indirect _, h => cases h
  | .lda, .relative _, h => cases h
  | .ldx, .implied, h => cases h
  | .ldx, .write _, h => cases h
  | .ldx, .modify .accumulator, h => cases h
  | .ldx, .modify (.memory _), h => cases h
  | .ldx, .target _, h => cases h
  | .ldx, .indirect _, h => cases h
  | .ldx, .relative _, h => cases h
  | .lax, .implied, h => cases h
  | .lax, .write _, h => cases h
  | .lax, .modify .accumulator, h => cases h
  | .lax, .modify (.memory _), h => cases h
  | .lax, .target _, h => cases h
  | .lax, .indirect _, h => cases h
  | .lax, .relative _, h => cases h
  | .tay, .read (.immediate _), h => cases h
  | .tay, .read (.memory _), h => cases h
  | .tay, .write _, h => cases h
  | .tay, .modify .accumulator, h => cases h
  | .tay, .modify (.memory _), h => cases h
  | .tay, .target _, h => cases h
  | .tay, .indirect _, h => cases h
  | .tay, .relative _, h => cases h
  | .tax, .read (.immediate _), h => cases h
  | .tax, .read (.memory _), h => cases h
  | .tax, .write _, h => cases h
  | .tax, .modify .accumulator, h => cases h
  | .tax, .modify (.memory _), h => cases h
  | .tax, .target _, h => cases h
  | .tax, .indirect _, h => cases h
  | .tax, .relative _, h => cases h
  | .laxAB, .implied, h => cases h
  | .laxAB, .read (.immediate _), h => cases h
  | .laxAB, .read (.memory _), h => cases h
  | .laxAB, .write _, h => cases h
  | .laxAB, .modify .accumulator, h => cases h
  | .laxAB, .modify (.memory _), h => cases h
  | .laxAB, .target _, h => cases h
  | .laxAB, .indirect _, h => cases h
  | .laxAB, .relative _, h => cases h
  | .bcs, .implied, h => cases h
  | .bcs, .read (.immediate _), h => cases h
  | .bcs, .read (.memory _), h => cases h
  | .bcs, .write _, h => cases h
  | .bcs, .modify .accumulator, h => cases h
  | .bcs, .modify (.memory _), h => cases h
  | .bcs, .target _, h => cases h
  | .bcs, .indirect _, h => cases h
  | .clv, .read (.immediate _), h => cases h
  | .clv, .read (.memory _), h => cases h
  | .clv, .write _, h => cases h
  | .clv, .modify .accumulator, h => cases h
  | .clv, .modify (.memory _), h => cases h
  | .clv, .target _, h => cases h
  | .clv, .indirect _, h => cases h
  | .clv, .relative _, h => cases h
  | .tsx, .read (.immediate _), h => cases h
  | .tsx, .read (.memory _), h => cases h
  | .tsx, .write _, h => cases h
  | .tsx, .modify .accumulator, h => cases h
  | .tsx, .modify (.memory _), h => cases h
  | .tsx, .target _, h => cases h
  | .tsx, .indirect _, h => cases h
  | .tsx, .relative _, h => cases h
  | .las, .implied, h => cases h
  | .las, .read (.immediate _), h => cases h
  | .las, .write _, h => cases h
  | .las, .modify .accumulator, h => cases h
  | .las, .modify (.memory _), h => cases h
  | .las, .target _, h => cases h
  | .las, .indirect _, h => cases h
  | .las, .relative _, h => cases h
  | .cpy, .implied, h => cases h
  | .cpy, .write _, h => cases h
  | .cpy, .modify .accumulator, h => cases h
  | .cpy, .modify (.memory _), h => cases h
  | .cpy, .target _, h => cases h
  | .cpy, .indirect _, h => cases h
  | .cpy, .relative _, h => cases h
  | .cmp, .implied, h => cases h
  | .cmp, .write _, h => cases h
  | .cmp, .modify .accumulator, h => cases h
  | .cmp, .modify (.memory _), h => cases h
  | .cmp, .target _, h => cases h
  | .cmp, .indirect _, h => cases h
  | .cmp, .relative _, h => cases h
  | .dcp, .implied, h => cases h
  | .dcp, .read (.immediate _), h => cases h
  | .dcp, .read (.memory _), h => cases h
  | .dcp, .write _, h => cases h
  | .dcp, .modify .accumulator, h => cases h
  | .dcp, .target _, h => cases h
  | .dcp, .indirect _, h => cases h
  | .dcp, .relative _, h => cases h
  | .dec, .implied, h => cases h
  | .dec, .read (.immediate _), h => cases h
  | .dec, .read (.memory _), h => cases h
  | .dec, .write _, h => cases h
  | .dec, .modify .accumulator, h => cases h
  | .dec, .target _, h => cases h
  | .dec, .indirect _, h => cases h
  | .dec, .relative _, h => cases h
  | .iny, .read (.immediate _), h => cases h
  | .iny, .read (.memory _), h => cases h
  | .iny, .write _, h => cases h
  | .iny, .modify .accumulator, h => cases h
  | .iny, .modify (.memory _), h => cases h
  | .iny, .target _, h => cases h
  | .iny, .indirect _, h => cases h
  | .iny, .relative _, h => cases h
  | .dex, .read (.immediate _), h => cases h
  | .dex, .read (.memory _), h => cases h
  | .dex, .write _, h => cases h
  | .dex, .modify .accumulator, h => cases h
  | .dex, .modify (.memory _), h => cases h
  | .dex, .target _, h => cases h
  | .dex, .indirect _, h => cases h
  | .dex, .relative _, h => cases h
  | .sbx, .implied, h => cases h
  | .sbx, .read (.memory _), h => cases h
  | .sbx, .write _, h => cases h
  | .sbx, .modify .accumulator, h => cases h
  | .sbx, .modify (.memory _), h => cases h
  | .sbx, .target _, h => cases h
  | .sbx, .indirect _, h => cases h
  | .sbx, .relative _, h => cases h
  | .bne, .implied, h => cases h
  | .bne, .read (.immediate _), h => cases h
  | .bne, .read (.memory _), h => cases h
  | .bne, .write _, h => cases h
  | .bne, .modify .accumulator, h => cases h
  | .bne, .modify (.memory _), h => cases h
  | .bne, .target _, h => cases h
  | .bne, .indirect _, h => cases h
  | .cld, .read (.immediate _), h => cases h
  | .cld, .read (.memory _), h => cases h
  | .cld, .write _, h => cases h
  | .cld, .modify .accumulator, h => cases h
  | .cld, .modify (.memory _), h => cases h
  | .cld, .target _, h => cases h
  | .cld, .indirect _, h => cases h
  | .cld, .relative _, h => cases h
  | .cpx, .implied, h => cases h
  | .cpx, .write _, h => cases h
  | .cpx, .modify .accumulator, h => cases h
  | .cpx, .modify (.memory _), h => cases h
  | .cpx, .target _, h => cases h
  | .cpx, .indirect _, h => cases h
  | .cpx, .relative _, h => cases h
  | .sbc, .implied, h => cases h
  | .sbc, .write _, h => cases h
  | .sbc, .modify .accumulator, h => cases h
  | .sbc, .modify (.memory _), h => cases h
  | .sbc, .target _, h => cases h
  | .sbc, .indirect _, h => cases h
  | .sbc, .relative _, h => cases h
  | .isc, .implied, h => cases h
  | .isc, .read (.immediate _), h => cases h
  | .isc, .read (.memory _), h => cases h
  | .isc, .write _, h => cases h
  | .isc, .modify .accumulator, h => cases h
  | .isc, .target _, h => cases h
  | .isc, .indirect _, h => cases h
  | .isc, .relative _, h => cases h
  | .inc, .implied, h => cases h
  | .inc, .read (.immediate _), h => cases h
  | .inc, .read (.memory _), h => cases h
  | .inc, .write _, h => cases h
  | .inc, .modify .accumulator, h => cases h
  | .inc, .target _, h => cases h
  | .inc, .indirect _, h => cases h
  | .inc, .relative _, h => cases h
  | .inx, .read (.immediate _), h => cases h
  | .inx, .read (.memory _), h => cases h
  | .inx, .write _, h => cases h
  | .inx, .modify .accumulator, h => cases h
  | .inx, .modify (.memory _), h => cases h
  | .inx, .target _, h => cases h
  | .inx, .indirect _, h => cases h
  | .inx, .relative _, h => cases h
  | .nop, .read (.immediate _), h => cases h
  | .nop, .read (.memory _), h => cases h
  | .nop, .write _, h => cases h
  | .nop, .modify .accumulator, h => cases h
  | .nop, .modify (.memory _), h => cases h
  | .nop, .target _, h => cases h
  | .nop, .indirect _, h => cases h
  | .nop, .relative _, h => cases h
  | .sbcEB, .implied, h => cases h
  | .sbcEB, .read (.memory _), h => cases h
  | .sbcEB, .write _, h => cases h
  | .sbcEB, .modify .accumulator, h => cases h
  | .sbcEB, .modify (.memory _), h => cases h
  | .sbcEB, .target _, h => cases h
  | .sbcEB, .indirect _, h => cases h
  | .sbcEB, .relative _, h => cases h
  | .beq, .implied, h => cases h
  | .beq, .read (.immediate _), h => cases h
  | .beq, .read (.memory _), h => cases h
  | .beq, .write _, h => cases h
  | .beq, .modify .accumulator, h => cases h
  | .beq, .modify (.memory _), h => cases h
  | .beq, .target _, h => cases h
  | .beq, .indirect _, h => cases h
  | .sed, .read (.immediate _), h => cases h
  | .sed, .read (.memory _), h => cases h
  | .sed, .write _, h => cases h
  | .sed, .modify .accumulator, h => cases h
  | .sed, .modify (.memory _), h => cases h
  | .sed, .target _, h => cases h
  | .sed, .indirect _, h => cases h
  | .sed, .relative _, h => cases h

/-- What holds of every next state an instruction can answer, by the form of the instruction. -/
theorem exec_cases {motive : Form → State → Prop} {s : State}
    (c_adc : ∀ r m q k, (∃ u, s.readSource r = .next (m, u)) → addResult s.params.decimalMode s.d s.a m s.c = .next q → motive ⟨.adc, .read r⟩
      (({ s with draws := k }.setArith q).advance r.length))
    (c_sbc : ∀ r m q k, (∃ u, s.readSource r = .next (m, u)) → subResult s.params.decimalMode s.d s.a m s.c = .next q → motive ⟨.sbc, .read r⟩
      (({ s with draws := k }.setArith q).advance r.length))
    (c_cmp : ∀ r m k, (∃ u, s.readSource r = .next (m, u)) → motive ⟨.cmp, .read r⟩
      (({ s with draws := k }.setCompare s.a m).advance r.length))
    (c_cpx : ∀ r m k, (∃ u, s.readSource r = .next (m, u)) → motive ⟨.cpx, .read r⟩
      (({ s with draws := k }.setCompare s.x m).advance r.length))
    (c_cpy : ∀ r m k, (∃ u, s.readSource r = .next (m, u)) → motive ⟨.cpy, .read r⟩
      (({ s with draws := k }.setCompare s.y m).advance r.length))
    (c_and : ∀ r m k, (∃ u, s.readSource r = .next (m, u)) → motive ⟨.and, .read r⟩
      ((({ s with draws := k }.setA (s.a &&& m)).setNZ (s.a &&& m)).advance r.length))
    (c_ora : ∀ r m k, (∃ u, s.readSource r = .next (m, u)) → motive ⟨.ora, .read r⟩
      ((({ s with draws := k }.setA (s.a ||| m)).setNZ (s.a ||| m)).advance r.length))
    (c_eor : ∀ r m k, (∃ u, s.readSource r = .next (m, u)) → motive ⟨.eor, .read r⟩
      ((({ s with draws := k }.setA (s.a ^^^ m)).setNZ (s.a ^^^ m)).advance r.length))
    (c_bit : ∀ r m k, (∃ u, s.readSource r = .next (m, u)) → motive ⟨.bit, .read r⟩
      (({ s with draws := k }.setBitTest m).advance r.length))
    (c_lda : ∀ r m k, (∃ u, s.readSource r = .next (m, u)) → motive ⟨.lda, .read r⟩
      ((({ s with draws := k }.setA m).setNZ m).advance r.length))
    (c_ldx : ∀ r m k, (∃ u, s.readSource r = .next (m, u)) → motive ⟨.ldx, .read r⟩
      ((({ s with draws := k }.setX m).setNZ m).advance r.length))
    (c_ldy : ∀ r m k, (∃ u, s.readSource r = .next (m, u)) → motive ⟨.ldy, .read r⟩
      ((({ s with draws := k }.setY m).setNZ m).advance r.length))
    (c_lax : ∀ r m k, (∃ u, s.readSource r = .next (m, u)) → motive ⟨.lax, .read r⟩
      (((({ s with draws := k }.setA m).setX m).setNZ m).advance r.length))
    (c_sta : ∀ m l k, (∃ u, s.locate m = .next (l, u)) → s.kindAt l.ea ≠ .device true → motive ⟨.sta, .write m⟩
      ((State.wrote l.ea (s.a) { s with draws := k }).advance m.length))
    (c_stx : ∀ m l k, (∃ u, s.locate m = .next (l, u)) → s.kindAt l.ea ≠ .device true → motive ⟨.stx, .write m⟩
      ((State.wrote l.ea (s.x) { s with draws := k }).advance m.length))
    (c_sty : ∀ m l k, (∃ u, s.locate m = .next (l, u)) → s.kindAt l.ea ≠ .device true → motive ⟨.sty, .write m⟩
      ((State.wrote l.ea (s.y) { s with draws := k }).advance m.length))
    (c_sax : ∀ m l k, (∃ u, s.locate m = .next (l, u)) → s.kindAt l.ea ≠ .device true → motive ⟨.sax, .write m⟩
      ((State.wrote l.ea (s.a &&& s.x) { s with draws := k }).advance m.length))
    (c_asl : ∀ m l b k, (∃ u v, s.locate m = .next (l, u) ∧ u.read l.ea = .next (b, v)) → motive ⟨.asl, .modify (.memory m)⟩
      ((((State.wrote l.ea (asl b s.c).1 { s with draws := k }).setC (asl b s.c).2).setNZ (asl b s.c).1).advance m.length))
    (c_lsr : ∀ m l b k, (∃ u v, s.locate m = .next (l, u) ∧ u.read l.ea = .next (b, v)) → motive ⟨.lsr, .modify (.memory m)⟩
      ((((State.wrote l.ea (lsr b s.c).1 { s with draws := k }).setC (lsr b s.c).2).setNZ (lsr b s.c).1).advance m.length))
    (c_rol : ∀ m l b k, (∃ u v, s.locate m = .next (l, u) ∧ u.read l.ea = .next (b, v)) → motive ⟨.rol, .modify (.memory m)⟩
      ((((State.wrote l.ea (rol b s.c).1 { s with draws := k }).setC (rol b s.c).2).setNZ (rol b s.c).1).advance m.length))
    (c_ror : ∀ m l b k, (∃ u v, s.locate m = .next (l, u) ∧ u.read l.ea = .next (b, v)) → motive ⟨.ror, .modify (.memory m)⟩
      ((((State.wrote l.ea (ror b s.c).1 { s with draws := k }).setC (ror b s.c).2).setNZ (ror b s.c).1).advance m.length))
    (c_inc : ∀ m l b k, (∃ u v, s.locate m = .next (l, u) ∧ u.read l.ea = .next (b, v)) → motive ⟨.inc, .modify (.memory m)⟩
      (((State.wrote l.ea (b + 1) { s with draws := k }).setNZ (b + 1)).advance m.length))
    (c_dec : ∀ m l b k, (∃ u v, s.locate m = .next (l, u) ∧ u.read l.ea = .next (b, v)) → motive ⟨.dec, .modify (.memory m)⟩
      (((State.wrote l.ea (b + -1) { s with draws := k }).setNZ (b + -1)).advance m.length))
    (c_slo : ∀ m l b k, (∃ u v, s.locate m = .next (l, u) ∧ u.read l.ea = .next (b, v)) → motive ⟨.slo, .modify (.memory m)⟩
      (((((State.wrote l.ea (asl b s.c).1 { s with draws := k }).setC (asl b s.c).2).setA (s.a ||| (asl b s.c).1)).setNZ
      (s.a ||| (asl b s.c).1)).advance m.length))
    (c_rla : ∀ m l b k, (∃ u v, s.locate m = .next (l, u) ∧ u.read l.ea = .next (b, v)) → motive ⟨.rla, .modify (.memory m)⟩
      (((((State.wrote l.ea (rol b s.c).1 { s with draws := k }).setC (rol b s.c).2).setA (s.a &&& (rol b s.c).1)).setNZ
      (s.a &&& (rol b s.c).1)).advance m.length))
    (c_sre : ∀ m l b k, (∃ u v, s.locate m = .next (l, u) ∧ u.read l.ea = .next (b, v)) → motive ⟨.sre, .modify (.memory m)⟩
      (((((State.wrote l.ea (lsr b s.c).1 { s with draws := k }).setC (lsr b s.c).2).setA (s.a ^^^ (lsr b s.c).1)).setNZ
      (s.a ^^^ (lsr b s.c).1)).advance m.length))
    (c_rra : ∀ m l b q k, (∃ u v, s.locate m = .next (l, u) ∧ u.read l.ea = .next (b, v)) →
      addResult s.params.decimalMode s.d s.a (ror b s.c).1 (ror b s.c).2 = .next q → motive ⟨.rra, .modify (.memory m)⟩
      (((State.wrote l.ea (ror b s.c).1 { s with draws := k }).setArith q).advance m.length))
    (c_isc : ∀ m l b q k, (∃ u v, s.locate m = .next (l, u) ∧ u.read l.ea = .next (b, v)) →
      subResult s.params.decimalMode s.d s.a (b + 1) s.c = .next q → motive ⟨.isc, .modify (.memory m)⟩
      (((State.wrote l.ea (b + 1) { s with draws := k }).setArith q).advance m.length))
    (c_dcp : ∀ m l b k, (∃ u v, s.locate m = .next (l, u) ∧ u.read l.ea = .next (b, v)) → motive ⟨.dcp, .modify (.memory m)⟩
      (((State.wrote l.ea (b - 1) { s with draws := k }).setCompare s.a (b - 1)).advance m.length))
    (c_aslA : motive ⟨.asl, .modify .accumulator⟩ ((((s.setA (asl s.a s.c).1).setC (asl s.a s.c).2).setNZ (asl s.a s.c).1).advance 1))
    (c_lsrA : motive ⟨.lsr, .modify .accumulator⟩ ((((s.setA (lsr s.a s.c).1).setC (lsr s.a s.c).2).setNZ (lsr s.a s.c).1).advance 1))
    (c_rolA : motive ⟨.rol, .modify .accumulator⟩ ((((s.setA (rol s.a s.c).1).setC (rol s.a s.c).2).setNZ (rol s.a s.c).1).advance 1))
    (c_rorA : motive ⟨.ror, .modify .accumulator⟩ ((((s.setA (ror s.a s.c).1).setC (ror s.a s.c).2).setNZ (ror s.a s.c).1).advance 1))
    (c_anc : ∀ b, motive ⟨.anc, .read (.immediate b)⟩
      ((((s.setA (s.a &&& b)).setNZ (s.a &&& b)).setC (bit (s.a &&& b) 7)).advance 2))
    (c_alr : ∀ b, motive ⟨.alr, .read (.immediate b)⟩
      ((((s.setA (lsr (s.a &&& b) s.c).1).setC (lsr (s.a &&& b) s.c).2).setNZ (lsr (s.a &&& b) s.c).1).advance 2))
    (c_sbx : ∀ b, motive ⟨.sbx, .read (.immediate b)⟩
      (((s.setCompare (s.a &&& s.x) b).setX ((s.a &&& s.x) - b)).advance 2))
    (c_arr : ∀ b q k, motive ⟨.arr, .read (.immediate b)⟩
      (({ s with draws := k }.setArith q).advance 2))
    (c_sha : ∀ m l w k, (∃ u, s.locate m = .next (l, u)) → l.crossed = false → motive ⟨.sha, .write m⟩
      ((State.wrote l.ea w { s with draws := k }).advance m.length))
    (c_shx : ∀ m l w k, (∃ u, s.locate m = .next (l, u)) → l.crossed = false → motive ⟨.shx, .write m⟩
      ((State.wrote l.ea w { s with draws := k }).advance m.length))
    (c_shy : ∀ m l w k, (∃ u, s.locate m = .next (l, u)) → l.crossed = false → motive ⟨.shy, .write m⟩
      ((State.wrote l.ea w { s with draws := k }).advance m.length))
    (c_tas : ∀ m l w k, (∃ u, s.locate m = .next (l, u)) → l.crossed = false → motive ⟨.tas, .write m⟩
      ((State.wrote l.ea w { s with sp := s.a &&& s.x, draws := k }).advance m.length))
    (c_las : ∀ m l b k, (∃ u v, s.locate m = .next (l, u) ∧ u.read l.ea = .next (b, v)) → l.crossed = false → motive ⟨.las, .read (.memory m)⟩
      ((((({ s with draws := k }.setA (b &&& s.sp)).setX (b &&& s.sp)).setSp (b &&& s.sp)).setNZ (b &&& s.sp)).advance m.length))
    (c_tax : motive ⟨.tax, .implied⟩ (((s.setX s.a).setNZ s.a).advance 1))
    (c_tay : motive ⟨.tay, .implied⟩ (((s.setY s.a).setNZ s.a).advance 1))
    (c_txa : motive ⟨.txa, .implied⟩ (((s.setA s.x).setNZ s.x).advance 1))
    (c_tya : motive ⟨.tya, .implied⟩ (((s.setA s.y).setNZ s.y).advance 1))
    (c_tsx : motive ⟨.tsx, .implied⟩ (((s.setX s.sp).setNZ s.sp).advance 1))
    (c_inx : motive ⟨.inx, .implied⟩ (((s.setX (s.x + 1)).setNZ (s.x + 1)).advance 1))
    (c_dex : motive ⟨.dex, .implied⟩ (((s.setX (s.x - 1)).setNZ (s.x - 1)).advance 1))
    (c_iny : motive ⟨.iny, .implied⟩ (((s.setY (s.y + 1)).setNZ (s.y + 1)).advance 1))
    (c_dey : motive ⟨.dey, .implied⟩ (((s.setY (s.y - 1)).setNZ (s.y - 1)).advance 1))
    (c_txs : motive ⟨.txs, .implied⟩ ((s.setSp s.x).advance 1))
    (c_clc : motive ⟨.clc, .implied⟩ ((s.setC false).advance 1))
    (c_sec : motive ⟨.sec, .implied⟩ ((s.setC true).advance 1))
    (c_cld : motive ⟨.cld, .implied⟩ ((s.setD false).advance 1))
    (c_sed : motive ⟨.sed, .implied⟩ ((s.setD true).advance 1))
    (c_cli : motive ⟨.cli, .implied⟩ ((s.setI false).advance 1))
    (c_sei : motive ⟨.sei, .implied⟩ ((s.setI true).advance 1))
    (c_clv : motive ⟨.clv, .implied⟩ ((s.setV false).advance 1))
    (c_nop : motive ⟨.nop, .implied⟩ (s.advance 1))
    (c_pha : s.kindAt (stackAddr s.sp) ≠ .device true → motive ⟨.pha, .implied⟩
      (((s.wrote (stackAddr s.sp) s.a).setSp (s.sp - 1)).advance 1))
    (c_php : s.kindAt (stackAddr s.sp) ≠ .device true → motive ⟨.php, .implied⟩
      (((s.wrote (stackAddr s.sp) (pByte true s)).setSp (s.sp - 1)).advance 1))
    (c_pla : ∀ b k, (∃ u, s.pull = .next (b, u)) → motive ⟨.pla, .implied⟩
      (((({ s with sp := s.sp + 1, draws := k } : State).setA b).setNZ b).advance 1))
    (c_plp : ∀ b k, (∃ u, s.pull = .next (b, u)) → motive ⟨.plp, .implied⟩
      ((({ s with sp := s.sp + 1, draws := k } : State).setP b).advance 1))
    (c_bcc : ∀ o, motive ⟨.bcc, .relative o⟩
      (s.setPc (if !s.c then s.pc + 2 + sext16 o else s.pc + 2)))
    (c_bcs : ∀ o, motive ⟨.bcs, .relative o⟩
      (s.setPc (if s.c then s.pc + 2 + sext16 o else s.pc + 2)))
    (c_beq : ∀ o, motive ⟨.beq, .relative o⟩
      (s.setPc (if s.z then s.pc + 2 + sext16 o else s.pc + 2)))
    (c_bne : ∀ o, motive ⟨.bne, .relative o⟩
      (s.setPc (if !s.z then s.pc + 2 + sext16 o else s.pc + 2)))
    (c_bmi : ∀ o, motive ⟨.bmi, .relative o⟩
      (s.setPc (if s.n then s.pc + 2 + sext16 o else s.pc + 2)))
    (c_bpl : ∀ o, motive ⟨.bpl, .relative o⟩
      (s.setPc (if !s.n then s.pc + 2 + sext16 o else s.pc + 2)))
    (c_bvc : ∀ o, motive ⟨.bvc, .relative o⟩
      (s.setPc (if !s.v then s.pc + 2 + sext16 o else s.pc + 2)))
    (c_bvs : ∀ o, motive ⟨.bvs, .relative o⟩
      (s.setPc (if s.v then s.pc + 2 + sext16 o else s.pc + 2)))
    (c_jmpAbs : ∀ a, motive ⟨.jmp, .target a⟩
      (s.setPc a))
    (c_jmpInd : ∀ a w k, (∃ u, s.read16Bug a = .next (w, u)) → motive ⟨.jmp, .indirect a⟩
      ({ s with draws := k }.setPc w))
    (c_jsr : ∀ a, s.kindAt (stackAddr s.sp) ≠ .device true → s.kindAt (stackAddr (s.sp - 1)) ≠ .device true → motive ⟨.jsr, .target a⟩
      ({ (s.wrote (stackAddr s.sp) (hi (s.pc + 2))).wrote (stackAddr (s.sp - 1)) (lo (s.pc + 2)) with sp := s.sp - 2, pc := a }))
    (c_rts : ∀ w k, (∃ u, s.pullWord = .next (w, u)) → motive ⟨.rts, .implied⟩
      (({ s with sp := s.sp + 2, draws := k } : State).setPc (w + 1)))
    (c_rti : ∀ p w k, motive ⟨.rti, .implied⟩
      ((({ s with sp := s.sp + 3, draws := k } : State).setP p).setPc w))
    (c_brk : ∀ w k, s.kindAt (stackAddr s.sp) ≠ .device true → s.kindAt (stackAddr (s.sp - 1)) ≠ .device true →
      s.kindAt (stackAddr (s.sp - 2)) ≠ .device true → motive ⟨.brk, .implied⟩
      ({ ((s.wrote (stackAddr s.sp) (hi (s.pc + 2))).wrote (stackAddr (s.sp - 1)) (lo (s.pc + 2))).wrote
        (stackAddr (s.sp - 2)) (pByte true s) with sp := s.sp - 3, i := true, pc := w, draws := k }))
    (c_jam : motive ⟨.jam, .implied⟩ s.setJammed)
    (c_illegalNop : s.params.admitMatrixOnly = true → motive ⟨.illegalNop, .implied⟩
      (s.advance 1))
    (c_illegalNopImm : ∀ b, s.params.admitMatrixOnly = true → motive ⟨.illegalNop, .read (.immediate b)⟩
      (s.advance 2))
    (c_illegalNopMem : ∀ m l k, (∃ u, s.locate m = .next (l, u)) → s.kindAt l.ea ≠ .device true →
      s.params.admitMatrixOnly = true → motive ⟨.illegalNop, .read (.memory m)⟩
      ({ s with draws := k }.advance m.length))
    (c_sbcEB : ∀ b q, s.params.admitMatrixOnly = true → subResult s.params.decimalMode s.d s.a b s.c = .next q → motive ⟨.sbcEB, .read (.immediate b)⟩
      ((s.setArith q).advance 2))
    {i : Instr} {t : State} (h : exec i s = .next t) : motive i.form t :=
  runForm_cases c_adc c_sbc c_cmp c_cpx c_cpy c_and c_ora c_eor c_bit c_lda c_ldx c_ldy c_lax c_sta c_stx c_sty c_sax c_asl c_lsr
    c_rol c_ror c_inc c_dec c_slo c_rla c_sre c_rra c_isc c_dcp c_aslA c_lsrA c_rolA c_rorA c_anc c_alr c_sbx c_arr
    c_sha c_shx c_shy c_tas c_las c_tax c_tay c_txa c_tya c_tsx c_inx c_dex c_iny c_dey c_txs c_clc c_sec c_cld c_sed
    c_cli c_sei c_clv c_nop c_pha c_php c_pla c_plp c_bcc c_bcs c_beq c_bne c_bmi c_bpl c_bvc c_bvs c_jmpAbs c_jmpInd
    c_jsr c_rts c_rti c_brk c_jam c_illegalNop c_illegalNopImm c_illegalNopMem c_sbcEB
    (exec_eq_run i s ▸ h)

end Sys2Proof.Machine
end

