-- ==== Sys2Proof/Laws/PerInstr.lean ====
section
/-!
SUPPORT. The statements made of every instruction as syntax, one lemma for each constructor of `Instr`: its well-formedness, and
the length of its encoding.
-/

namespace Sys2Proof.Laws

/-- The spec has a row for the instruction's form. -/
def IsWellFormed.Statement (i : Instr) : Prop := i.wellFormed = true

/-- The encoding has as many bytes as the mode gives (rule R51). -/
def LengthIsEncodedLength.Statement (i : Instr) : Prop := (encode i).length = i.length

theorem IsWellFormed.oraIndX (zp : Byte) : IsWellFormed.Statement (.oraIndX zp) := rfl
theorem IsWellFormed.sloIndX (zp : Byte) : IsWellFormed.Statement (.sloIndX zp) := rfl
theorem IsWellFormed.nop04 (zp : Byte) : IsWellFormed.Statement (.nop04 zp) := rfl
theorem IsWellFormed.oraZp (zp : Byte) : IsWellFormed.Statement (.oraZp zp) := rfl
theorem IsWellFormed.aslZp (zp : Byte) : IsWellFormed.Statement (.aslZp zp) := rfl
theorem IsWellFormed.sloZp (zp : Byte) : IsWellFormed.Statement (.sloZp zp) := rfl
theorem IsWellFormed.oraImm (imm : Byte) : IsWellFormed.Statement (.oraImm imm) := rfl
theorem IsWellFormed.anc0B (imm : Byte) : IsWellFormed.Statement (.anc0B imm) := rfl
theorem IsWellFormed.nop0C (addr : Addr) : IsWellFormed.Statement (.nop0C addr) := rfl
theorem IsWellFormed.oraAbs (addr : Addr) : IsWellFormed.Statement (.oraAbs addr) := rfl
theorem IsWellFormed.aslAbs (addr : Addr) : IsWellFormed.Statement (.aslAbs addr) := rfl
theorem IsWellFormed.sloAbs (addr : Addr) : IsWellFormed.Statement (.sloAbs addr) := rfl
theorem IsWellFormed.bpl (offset : Byte) : IsWellFormed.Statement (.bpl offset) := rfl
theorem IsWellFormed.oraIndY (zp : Byte) : IsWellFormed.Statement (.oraIndY zp) := rfl
theorem IsWellFormed.sloIndY (zp : Byte) : IsWellFormed.Statement (.sloIndY zp) := rfl
theorem IsWellFormed.nop14 (zp : Byte) : IsWellFormed.Statement (.nop14 zp) := rfl
theorem IsWellFormed.oraZpX (zp : Byte) : IsWellFormed.Statement (.oraZpX zp) := rfl
theorem IsWellFormed.aslZpX (zp : Byte) : IsWellFormed.Statement (.aslZpX zp) := rfl
theorem IsWellFormed.sloZpX (zp : Byte) : IsWellFormed.Statement (.sloZpX zp) := rfl
theorem IsWellFormed.oraAbsY (addr : Addr) : IsWellFormed.Statement (.oraAbsY addr) := rfl
theorem IsWellFormed.sloAbsY (addr : Addr) : IsWellFormed.Statement (.sloAbsY addr) := rfl
theorem IsWellFormed.nop1C (addr : Addr) : IsWellFormed.Statement (.nop1C addr) := rfl
theorem IsWellFormed.oraAbsX (addr : Addr) : IsWellFormed.Statement (.oraAbsX addr) := rfl
theorem IsWellFormed.aslAbsX (addr : Addr) : IsWellFormed.Statement (.aslAbsX addr) := rfl
theorem IsWellFormed.sloAbsX (addr : Addr) : IsWellFormed.Statement (.sloAbsX addr) := rfl
theorem IsWellFormed.jsr (addr : Addr) : IsWellFormed.Statement (.jsr addr) := rfl
theorem IsWellFormed.andIndX (zp : Byte) : IsWellFormed.Statement (.andIndX zp) := rfl
theorem IsWellFormed.rlaIndX (zp : Byte) : IsWellFormed.Statement (.rlaIndX zp) := rfl
theorem IsWellFormed.bitZp (zp : Byte) : IsWellFormed.Statement (.bitZp zp) := rfl
theorem IsWellFormed.andZp (zp : Byte) : IsWellFormed.Statement (.andZp zp) := rfl
theorem IsWellFormed.rolZp (zp : Byte) : IsWellFormed.Statement (.rolZp zp) := rfl
theorem IsWellFormed.rlaZp (zp : Byte) : IsWellFormed.Statement (.rlaZp zp) := rfl
theorem IsWellFormed.andImm (imm : Byte) : IsWellFormed.Statement (.andImm imm) := rfl
theorem IsWellFormed.anc2B (imm : Byte) : IsWellFormed.Statement (.anc2B imm) := rfl
theorem IsWellFormed.bitAbs (addr : Addr) : IsWellFormed.Statement (.bitAbs addr) := rfl
theorem IsWellFormed.andAbs (addr : Addr) : IsWellFormed.Statement (.andAbs addr) := rfl
theorem IsWellFormed.rolAbs (addr : Addr) : IsWellFormed.Statement (.rolAbs addr) := rfl
theorem IsWellFormed.rlaAbs (addr : Addr) : IsWellFormed.Statement (.rlaAbs addr) := rfl
theorem IsWellFormed.bmi (offset : Byte) : IsWellFormed.Statement (.bmi offset) := rfl
theorem IsWellFormed.andIndY (zp : Byte) : IsWellFormed.Statement (.andIndY zp) := rfl
theorem IsWellFormed.rlaIndY (zp : Byte) : IsWellFormed.Statement (.rlaIndY zp) := rfl
theorem IsWellFormed.nop34 (zp : Byte) : IsWellFormed.Statement (.nop34 zp) := rfl
theorem IsWellFormed.andZpX (zp : Byte) : IsWellFormed.Statement (.andZpX zp) := rfl
theorem IsWellFormed.rolZpX (zp : Byte) : IsWellFormed.Statement (.rolZpX zp) := rfl
theorem IsWellFormed.rlaZpX (zp : Byte) : IsWellFormed.Statement (.rlaZpX zp) := rfl
theorem IsWellFormed.andAbsY (addr : Addr) : IsWellFormed.Statement (.andAbsY addr) := rfl
theorem IsWellFormed.rlaAbsY (addr : Addr) : IsWellFormed.Statement (.rlaAbsY addr) := rfl
theorem IsWellFormed.nop3C (addr : Addr) : IsWellFormed.Statement (.nop3C addr) := rfl
theorem IsWellFormed.andAbsX (addr : Addr) : IsWellFormed.Statement (.andAbsX addr) := rfl
theorem IsWellFormed.rolAbsX (addr : Addr) : IsWellFormed.Statement (.rolAbsX addr) := rfl
theorem IsWellFormed.rlaAbsX (addr : Addr) : IsWellFormed.Statement (.rlaAbsX addr) := rfl
theorem IsWellFormed.eorIndX (zp : Byte) : IsWellFormed.Statement (.eorIndX zp) := rfl
theorem IsWellFormed.sreIndX (zp : Byte) : IsWellFormed.Statement (.sreIndX zp) := rfl
theorem IsWellFormed.nop44 (zp : Byte) : IsWellFormed.Statement (.nop44 zp) := rfl
theorem IsWellFormed.eorZp (zp : Byte) : IsWellFormed.Statement (.eorZp zp) := rfl
theorem IsWellFormed.lsrZp (zp : Byte) : IsWellFormed.Statement (.lsrZp zp) := rfl
theorem IsWellFormed.sreZp (zp : Byte) : IsWellFormed.Statement (.sreZp zp) := rfl
theorem IsWellFormed.eorImm (imm : Byte) : IsWellFormed.Statement (.eorImm imm) := rfl
theorem IsWellFormed.alr (imm : Byte) : IsWellFormed.Statement (.alr imm) := rfl
theorem IsWellFormed.jmpAbs (addr : Addr) : IsWellFormed.Statement (.jmpAbs addr) := rfl
theorem IsWellFormed.eorAbs (addr : Addr) : IsWellFormed.Statement (.eorAbs addr) := rfl
theorem IsWellFormed.lsrAbs (addr : Addr) : IsWellFormed.Statement (.lsrAbs addr) := rfl
theorem IsWellFormed.sreAbs (addr : Addr) : IsWellFormed.Statement (.sreAbs addr) := rfl
theorem IsWellFormed.bvc (offset : Byte) : IsWellFormed.Statement (.bvc offset) := rfl
theorem IsWellFormed.eorIndY (zp : Byte) : IsWellFormed.Statement (.eorIndY zp) := rfl
theorem IsWellFormed.sreIndY (zp : Byte) : IsWellFormed.Statement (.sreIndY zp) := rfl
theorem IsWellFormed.nop54 (zp : Byte) : IsWellFormed.Statement (.nop54 zp) := rfl
theorem IsWellFormed.eorZpX (zp : Byte) : IsWellFormed.Statement (.eorZpX zp) := rfl
theorem IsWellFormed.lsrZpX (zp : Byte) : IsWellFormed.Statement (.lsrZpX zp) := rfl
theorem IsWellFormed.sreZpX (zp : Byte) : IsWellFormed.Statement (.sreZpX zp) := rfl
theorem IsWellFormed.eorAbsY (addr : Addr) : IsWellFormed.Statement (.eorAbsY addr) := rfl
theorem IsWellFormed.sreAbsY (addr : Addr) : IsWellFormed.Statement (.sreAbsY addr) := rfl
theorem IsWellFormed.nop5C (addr : Addr) : IsWellFormed.Statement (.nop5C addr) := rfl
theorem IsWellFormed.eorAbsX (addr : Addr) : IsWellFormed.Statement (.eorAbsX addr) := rfl
theorem IsWellFormed.lsrAbsX (addr : Addr) : IsWellFormed.Statement (.lsrAbsX addr) := rfl
theorem IsWellFormed.sreAbsX (addr : Addr) : IsWellFormed.Statement (.sreAbsX addr) := rfl
theorem IsWellFormed.adcIndX (zp : Byte) : IsWellFormed.Statement (.adcIndX zp) := rfl
theorem IsWellFormed.rraIndX (zp : Byte) : IsWellFormed.Statement (.rraIndX zp) := rfl
theorem IsWellFormed.nop64 (zp : Byte) : IsWellFormed.Statement (.nop64 zp) := rfl
theorem IsWellFormed.adcZp (zp : Byte) : IsWellFormed.Statement (.adcZp zp) := rfl
theorem IsWellFormed.rorZp (zp : Byte) : IsWellFormed.Statement (.rorZp zp) := rfl
theorem IsWellFormed.rraZp (zp : Byte) : IsWellFormed.Statement (.rraZp zp) := rfl
theorem IsWellFormed.adcImm (imm : Byte) : IsWellFormed.Statement (.adcImm imm) := rfl
theorem IsWellFormed.arr (imm : Byte) : IsWellFormed.Statement (.arr imm) := rfl
theorem IsWellFormed.jmpInd (addr : Addr) : IsWellFormed.Statement (.jmpInd addr) := rfl
theorem IsWellFormed.adcAbs (addr : Addr) : IsWellFormed.Statement (.adcAbs addr) := rfl
theorem IsWellFormed.rorAbs (addr : Addr) : IsWellFormed.Statement (.rorAbs addr) := rfl
theorem IsWellFormed.rraAbs (addr : Addr) : IsWellFormed.Statement (.rraAbs addr) := rfl
theorem IsWellFormed.bvs (offset : Byte) : IsWellFormed.Statement (.bvs offset) := rfl
theorem IsWellFormed.adcIndY (zp : Byte) : IsWellFormed.Statement (.adcIndY zp) := rfl
theorem IsWellFormed.rraIndY (zp : Byte) : IsWellFormed.Statement (.rraIndY zp) := rfl
theorem IsWellFormed.nop74 (zp : Byte) : IsWellFormed.Statement (.nop74 zp) := rfl
theorem IsWellFormed.adcZpX (zp : Byte) : IsWellFormed.Statement (.adcZpX zp) := rfl
theorem IsWellFormed.rorZpX (zp : Byte) : IsWellFormed.Statement (.rorZpX zp) := rfl
theorem IsWellFormed.rraZpX (zp : Byte) : IsWellFormed.Statement (.rraZpX zp) := rfl
theorem IsWellFormed.adcAbsY (addr : Addr) : IsWellFormed.Statement (.adcAbsY addr) := rfl
theorem IsWellFormed.rraAbsY (addr : Addr) : IsWellFormed.Statement (.rraAbsY addr) := rfl
theorem IsWellFormed.nop7C (addr : Addr) : IsWellFormed.Statement (.nop7C addr) := rfl
theorem IsWellFormed.adcAbsX (addr : Addr) : IsWellFormed.Statement (.adcAbsX addr) := rfl
theorem IsWellFormed.rorAbsX (addr : Addr) : IsWellFormed.Statement (.rorAbsX addr) := rfl
theorem IsWellFormed.rraAbsX (addr : Addr) : IsWellFormed.Statement (.rraAbsX addr) := rfl
theorem IsWellFormed.nop80 (imm : Byte) : IsWellFormed.Statement (.nop80 imm) := rfl
theorem IsWellFormed.staIndX (zp : Byte) : IsWellFormed.Statement (.staIndX zp) := rfl
theorem IsWellFormed.nop82 (imm : Byte) : IsWellFormed.Statement (.nop82 imm) := rfl
theorem IsWellFormed.saxIndX (zp : Byte) : IsWellFormed.Statement (.saxIndX zp) := rfl
theorem IsWellFormed.styZp (zp : Byte) : IsWellFormed.Statement (.styZp zp) := rfl
theorem IsWellFormed.staZp (zp : Byte) : IsWellFormed.Statement (.staZp zp) := rfl
theorem IsWellFormed.stxZp (zp : Byte) : IsWellFormed.Statement (.stxZp zp) := rfl
theorem IsWellFormed.saxZp (zp : Byte) : IsWellFormed.Statement (.saxZp zp) := rfl
theorem IsWellFormed.nop89 (imm : Byte) : IsWellFormed.Statement (.nop89 imm) := rfl
theorem IsWellFormed.styAbs (addr : Addr) : IsWellFormed.Statement (.styAbs addr) := rfl
theorem IsWellFormed.staAbs (addr : Addr) : IsWellFormed.Statement (.staAbs addr) := rfl
theorem IsWellFormed.stxAbs (addr : Addr) : IsWellFormed.Statement (.stxAbs addr) := rfl
theorem IsWellFormed.saxAbs (addr : Addr) : IsWellFormed.Statement (.saxAbs addr) := rfl
theorem IsWellFormed.bcc (offset : Byte) : IsWellFormed.Statement (.bcc offset) := rfl
theorem IsWellFormed.staIndY (zp : Byte) : IsWellFormed.Statement (.staIndY zp) := rfl
theorem IsWellFormed.shaIndY (zp : Byte) : IsWellFormed.Statement (.shaIndY zp) := rfl
theorem IsWellFormed.styZpX (zp : Byte) : IsWellFormed.Statement (.styZpX zp) := rfl
theorem IsWellFormed.staZpX (zp : Byte) : IsWellFormed.Statement (.staZpX zp) := rfl
theorem IsWellFormed.stxZpY (zp : Byte) : IsWellFormed.Statement (.stxZpY zp) := rfl
theorem IsWellFormed.saxZpY (zp : Byte) : IsWellFormed.Statement (.saxZpY zp) := rfl
theorem IsWellFormed.staAbsY (addr : Addr) : IsWellFormed.Statement (.staAbsY addr) := rfl
theorem IsWellFormed.tas (addr : Addr) : IsWellFormed.Statement (.tas addr) := rfl
theorem IsWellFormed.shy (addr : Addr) : IsWellFormed.Statement (.shy addr) := rfl
theorem IsWellFormed.staAbsX (addr : Addr) : IsWellFormed.Statement (.staAbsX addr) := rfl
theorem IsWellFormed.shx (addr : Addr) : IsWellFormed.Statement (.shx addr) := rfl
theorem IsWellFormed.shaAbsY (addr : Addr) : IsWellFormed.Statement (.shaAbsY addr) := rfl
theorem IsWellFormed.ldyImm (imm : Byte) : IsWellFormed.Statement (.ldyImm imm) := rfl
theorem IsWellFormed.ldaIndX (zp : Byte) : IsWellFormed.Statement (.ldaIndX zp) := rfl
theorem IsWellFormed.ldxImm (imm : Byte) : IsWellFormed.Statement (.ldxImm imm) := rfl
theorem IsWellFormed.laxIndX (zp : Byte) : IsWellFormed.Statement (.laxIndX zp) := rfl
theorem IsWellFormed.ldyZp (zp : Byte) : IsWellFormed.Statement (.ldyZp zp) := rfl
theorem IsWellFormed.ldaZp (zp : Byte) : IsWellFormed.Statement (.ldaZp zp) := rfl
theorem IsWellFormed.ldxZp (zp : Byte) : IsWellFormed.Statement (.ldxZp zp) := rfl
theorem IsWellFormed.laxZp (zp : Byte) : IsWellFormed.Statement (.laxZp zp) := rfl
theorem IsWellFormed.ldaImm (imm : Byte) : IsWellFormed.Statement (.ldaImm imm) := rfl
theorem IsWellFormed.ldyAbs (addr : Addr) : IsWellFormed.Statement (.ldyAbs addr) := rfl
theorem IsWellFormed.ldaAbs (addr : Addr) : IsWellFormed.Statement (.ldaAbs addr) := rfl
theorem IsWellFormed.ldxAbs (addr : Addr) : IsWellFormed.Statement (.ldxAbs addr) := rfl
theorem IsWellFormed.laxAbs (addr : Addr) : IsWellFormed.Statement (.laxAbs addr) := rfl
theorem IsWellFormed.bcs (offset : Byte) : IsWellFormed.Statement (.bcs offset) := rfl
theorem IsWellFormed.ldaIndY (zp : Byte) : IsWellFormed.Statement (.ldaIndY zp) := rfl
theorem IsWellFormed.laxIndY (zp : Byte) : IsWellFormed.Statement (.laxIndY zp) := rfl
theorem IsWellFormed.ldyZpX (zp : Byte) : IsWellFormed.Statement (.ldyZpX zp) := rfl
theorem IsWellFormed.ldaZpX (zp : Byte) : IsWellFormed.Statement (.ldaZpX zp) := rfl
theorem IsWellFormed.ldxZpY (zp : Byte) : IsWellFormed.Statement (.ldxZpY zp) := rfl
theorem IsWellFormed.laxZpY (zp : Byte) : IsWellFormed.Statement (.laxZpY zp) := rfl
theorem IsWellFormed.ldaAbsY (addr : Addr) : IsWellFormed.Statement (.ldaAbsY addr) := rfl
theorem IsWellFormed.las (addr : Addr) : IsWellFormed.Statement (.las addr) := rfl
theorem IsWellFormed.ldyAbsX (addr : Addr) : IsWellFormed.Statement (.ldyAbsX addr) := rfl
theorem IsWellFormed.ldaAbsX (addr : Addr) : IsWellFormed.Statement (.ldaAbsX addr) := rfl
theorem IsWellFormed.ldxAbsY (addr : Addr) : IsWellFormed.Statement (.ldxAbsY addr) := rfl
theorem IsWellFormed.laxAbsY (addr : Addr) : IsWellFormed.Statement (.laxAbsY addr) := rfl
theorem IsWellFormed.cpyImm (imm : Byte) : IsWellFormed.Statement (.cpyImm imm) := rfl
theorem IsWellFormed.cmpIndX (zp : Byte) : IsWellFormed.Statement (.cmpIndX zp) := rfl
theorem IsWellFormed.nopC2 (imm : Byte) : IsWellFormed.Statement (.nopC2 imm) := rfl
theorem IsWellFormed.dcpIndX (zp : Byte) : IsWellFormed.Statement (.dcpIndX zp) := rfl
theorem IsWellFormed.cpyZp (zp : Byte) : IsWellFormed.Statement (.cpyZp zp) := rfl
theorem IsWellFormed.cmpZp (zp : Byte) : IsWellFormed.Statement (.cmpZp zp) := rfl
theorem IsWellFormed.decZp (zp : Byte) : IsWellFormed.Statement (.decZp zp) := rfl
theorem IsWellFormed.dcpZp (zp : Byte) : IsWellFormed.Statement (.dcpZp zp) := rfl
theorem IsWellFormed.cmpImm (imm : Byte) : IsWellFormed.Statement (.cmpImm imm) := rfl
theorem IsWellFormed.sbx (imm : Byte) : IsWellFormed.Statement (.sbx imm) := rfl
theorem IsWellFormed.cpyAbs (addr : Addr) : IsWellFormed.Statement (.cpyAbs addr) := rfl
theorem IsWellFormed.cmpAbs (addr : Addr) : IsWellFormed.Statement (.cmpAbs addr) := rfl
theorem IsWellFormed.decAbs (addr : Addr) : IsWellFormed.Statement (.decAbs addr) := rfl
theorem IsWellFormed.dcpAbs (addr : Addr) : IsWellFormed.Statement (.dcpAbs addr) := rfl
theorem IsWellFormed.bne (offset : Byte) : IsWellFormed.Statement (.bne offset) := rfl
theorem IsWellFormed.cmpIndY (zp : Byte) : IsWellFormed.Statement (.cmpIndY zp) := rfl
theorem IsWellFormed.dcpIndY (zp : Byte) : IsWellFormed.Statement (.dcpIndY zp) := rfl
theorem IsWellFormed.nopD4 (zp : Byte) : IsWellFormed.Statement (.nopD4 zp) := rfl
theorem IsWellFormed.cmpZpX (zp : Byte) : IsWellFormed.Statement (.cmpZpX zp) := rfl
theorem IsWellFormed.decZpX (zp : Byte) : IsWellFormed.Statement (.decZpX zp) := rfl
theorem IsWellFormed.dcpZpX (zp : Byte) : IsWellFormed.Statement (.dcpZpX zp) := rfl
theorem IsWellFormed.cmpAbsY (addr : Addr) : IsWellFormed.Statement (.cmpAbsY addr) := rfl
theorem IsWellFormed.dcpAbsY (addr : Addr) : IsWellFormed.Statement (.dcpAbsY addr) := rfl
theorem IsWellFormed.nopDC (addr : Addr) : IsWellFormed.Statement (.nopDC addr) := rfl
theorem IsWellFormed.cmpAbsX (addr : Addr) : IsWellFormed.Statement (.cmpAbsX addr) := rfl
theorem IsWellFormed.decAbsX (addr : Addr) : IsWellFormed.Statement (.decAbsX addr) := rfl
theorem IsWellFormed.dcpAbsX (addr : Addr) : IsWellFormed.Statement (.dcpAbsX addr) := rfl
theorem IsWellFormed.cpxImm (imm : Byte) : IsWellFormed.Statement (.cpxImm imm) := rfl
theorem IsWellFormed.sbcIndX (zp : Byte) : IsWellFormed.Statement (.sbcIndX zp) := rfl
theorem IsWellFormed.nopE2 (imm : Byte) : IsWellFormed.Statement (.nopE2 imm) := rfl
theorem IsWellFormed.iscIndX (zp : Byte) : IsWellFormed.Statement (.iscIndX zp) := rfl
theorem IsWellFormed.cpxZp (zp : Byte) : IsWellFormed.Statement (.cpxZp zp) := rfl
theorem IsWellFormed.sbcZp (zp : Byte) : IsWellFormed.Statement (.sbcZp zp) := rfl
theorem IsWellFormed.incZp (zp : Byte) : IsWellFormed.Statement (.incZp zp) := rfl
theorem IsWellFormed.iscZp (zp : Byte) : IsWellFormed.Statement (.iscZp zp) := rfl
theorem IsWellFormed.sbcImm (imm : Byte) : IsWellFormed.Statement (.sbcImm imm) := rfl
theorem IsWellFormed.sbcEB (imm : Byte) : IsWellFormed.Statement (.sbcEB imm) := rfl
theorem IsWellFormed.cpxAbs (addr : Addr) : IsWellFormed.Statement (.cpxAbs addr) := rfl
theorem IsWellFormed.sbcAbs (addr : Addr) : IsWellFormed.Statement (.sbcAbs addr) := rfl
theorem IsWellFormed.incAbs (addr : Addr) : IsWellFormed.Statement (.incAbs addr) := rfl
theorem IsWellFormed.iscAbs (addr : Addr) : IsWellFormed.Statement (.iscAbs addr) := rfl
theorem IsWellFormed.beq (offset : Byte) : IsWellFormed.Statement (.beq offset) := rfl
theorem IsWellFormed.sbcIndY (zp : Byte) : IsWellFormed.Statement (.sbcIndY zp) := rfl
theorem IsWellFormed.iscIndY (zp : Byte) : IsWellFormed.Statement (.iscIndY zp) := rfl
theorem IsWellFormed.nopF4 (zp : Byte) : IsWellFormed.Statement (.nopF4 zp) := rfl
theorem IsWellFormed.sbcZpX (zp : Byte) : IsWellFormed.Statement (.sbcZpX zp) := rfl
theorem IsWellFormed.incZpX (zp : Byte) : IsWellFormed.Statement (.incZpX zp) := rfl
theorem IsWellFormed.iscZpX (zp : Byte) : IsWellFormed.Statement (.iscZpX zp) := rfl
theorem IsWellFormed.sbcAbsY (addr : Addr) : IsWellFormed.Statement (.sbcAbsY addr) := rfl
theorem IsWellFormed.iscAbsY (addr : Addr) : IsWellFormed.Statement (.iscAbsY addr) := rfl
theorem IsWellFormed.nopFC (addr : Addr) : IsWellFormed.Statement (.nopFC addr) := rfl
theorem IsWellFormed.sbcAbsX (addr : Addr) : IsWellFormed.Statement (.sbcAbsX addr) := rfl
theorem IsWellFormed.incAbsX (addr : Addr) : IsWellFormed.Statement (.incAbsX addr) := rfl
theorem IsWellFormed.iscAbsX (addr : Addr) : IsWellFormed.Statement (.iscAbsX addr) := rfl
theorem IsWellFormed.brk : IsWellFormed.Statement (.brk) := rfl
theorem IsWellFormed.jam02 : IsWellFormed.Statement (.jam02) := rfl
theorem IsWellFormed.php : IsWellFormed.Statement (.php) := rfl
theorem IsWellFormed.aslAcc : IsWellFormed.Statement (.aslAcc) := rfl
theorem IsWellFormed.jam12 : IsWellFormed.Statement (.jam12) := rfl
theorem IsWellFormed.clc : IsWellFormed.Statement (.clc) := rfl
theorem IsWellFormed.nop1A : IsWellFormed.Statement (.nop1A) := rfl
theorem IsWellFormed.jam22 : IsWellFormed.Statement (.jam22) := rfl
theorem IsWellFormed.plp : IsWellFormed.Statement (.plp) := rfl
theorem IsWellFormed.rolAcc : IsWellFormed.Statement (.rolAcc) := rfl
theorem IsWellFormed.jam32 : IsWellFormed.Statement (.jam32) := rfl
theorem IsWellFormed.sec : IsWellFormed.Statement (.sec) := rfl
theorem IsWellFormed.nop3A : IsWellFormed.Statement (.nop3A) := rfl
theorem IsWellFormed.rti : IsWellFormed.Statement (.rti) := rfl
theorem IsWellFormed.jam42 : IsWellFormed.Statement (.jam42) := rfl
theorem IsWellFormed.pha : IsWellFormed.Statement (.pha) := rfl
theorem IsWellFormed.lsrAcc : IsWellFormed.Statement (.lsrAcc) := rfl
theorem IsWellFormed.jam52 : IsWellFormed.Statement (.jam52) := rfl
theorem IsWellFormed.cli : IsWellFormed.Statement (.cli) := rfl
theorem IsWellFormed.nop5A : IsWellFormed.Statement (.nop5A) := rfl
theorem IsWellFormed.rts : IsWellFormed.Statement (.rts) := rfl
theorem IsWellFormed.jam62 : IsWellFormed.Statement (.jam62) := rfl
theorem IsWellFormed.pla : IsWellFormed.Statement (.pla) := rfl
theorem IsWellFormed.rorAcc : IsWellFormed.Statement (.rorAcc) := rfl
theorem IsWellFormed.jam72 : IsWellFormed.Statement (.jam72) := rfl
theorem IsWellFormed.sei : IsWellFormed.Statement (.sei) := rfl
theorem IsWellFormed.nop7A : IsWellFormed.Statement (.nop7A) := rfl
theorem IsWellFormed.dey : IsWellFormed.Statement (.dey) := rfl
theorem IsWellFormed.txa : IsWellFormed.Statement (.txa) := rfl
theorem IsWellFormed.ane : IsWellFormed.Statement (.ane) := rfl
theorem IsWellFormed.jam92 : IsWellFormed.Statement (.jam92) := rfl
theorem IsWellFormed.tya : IsWellFormed.Statement (.tya) := rfl
theorem IsWellFormed.txs : IsWellFormed.Statement (.txs) := rfl
theorem IsWellFormed.tay : IsWellFormed.Statement (.tay) := rfl
theorem IsWellFormed.tax : IsWellFormed.Statement (.tax) := rfl
theorem IsWellFormed.laxAB : IsWellFormed.Statement (.laxAB) := rfl
theorem IsWellFormed.jamB2 : IsWellFormed.Statement (.jamB2) := rfl
theorem IsWellFormed.clv : IsWellFormed.Statement (.clv) := rfl
theorem IsWellFormed.tsx : IsWellFormed.Statement (.tsx) := rfl
theorem IsWellFormed.iny : IsWellFormed.Statement (.iny) := rfl
theorem IsWellFormed.dex : IsWellFormed.Statement (.dex) := rfl
theorem IsWellFormed.jamD2 : IsWellFormed.Statement (.jamD2) := rfl
theorem IsWellFormed.cld : IsWellFormed.Statement (.cld) := rfl
theorem IsWellFormed.nopDA : IsWellFormed.Statement (.nopDA) := rfl
theorem IsWellFormed.inx : IsWellFormed.Statement (.inx) := rfl
theorem IsWellFormed.nop : IsWellFormed.Statement (.nop) := rfl
theorem IsWellFormed.jamF2 : IsWellFormed.Statement (.jamF2) := rfl
theorem IsWellFormed.sed : IsWellFormed.Statement (.sed) := rfl
theorem IsWellFormed.nopFA : IsWellFormed.Statement (.nopFA) := rfl

theorem LengthIsEncodedLength.oraIndX (zp : Byte) : LengthIsEncodedLength.Statement (.oraIndX zp) := rfl
theorem LengthIsEncodedLength.sloIndX (zp : Byte) : LengthIsEncodedLength.Statement (.sloIndX zp) := rfl
theorem LengthIsEncodedLength.nop04 (zp : Byte) : LengthIsEncodedLength.Statement (.nop04 zp) := rfl
theorem LengthIsEncodedLength.oraZp (zp : Byte) : LengthIsEncodedLength.Statement (.oraZp zp) := rfl
theorem LengthIsEncodedLength.aslZp (zp : Byte) : LengthIsEncodedLength.Statement (.aslZp zp) := rfl
theorem LengthIsEncodedLength.sloZp (zp : Byte) : LengthIsEncodedLength.Statement (.sloZp zp) := rfl
theorem LengthIsEncodedLength.oraImm (imm : Byte) : LengthIsEncodedLength.Statement (.oraImm imm) := rfl
theorem LengthIsEncodedLength.anc0B (imm : Byte) : LengthIsEncodedLength.Statement (.anc0B imm) := rfl
theorem LengthIsEncodedLength.nop0C (addr : Addr) : LengthIsEncodedLength.Statement (.nop0C addr) := rfl
theorem LengthIsEncodedLength.oraAbs (addr : Addr) : LengthIsEncodedLength.Statement (.oraAbs addr) := rfl
theorem LengthIsEncodedLength.aslAbs (addr : Addr) : LengthIsEncodedLength.Statement (.aslAbs addr) := rfl
theorem LengthIsEncodedLength.sloAbs (addr : Addr) : LengthIsEncodedLength.Statement (.sloAbs addr) := rfl
theorem LengthIsEncodedLength.bpl (offset : Byte) : LengthIsEncodedLength.Statement (.bpl offset) := rfl
theorem LengthIsEncodedLength.oraIndY (zp : Byte) : LengthIsEncodedLength.Statement (.oraIndY zp) := rfl
theorem LengthIsEncodedLength.sloIndY (zp : Byte) : LengthIsEncodedLength.Statement (.sloIndY zp) := rfl
theorem LengthIsEncodedLength.nop14 (zp : Byte) : LengthIsEncodedLength.Statement (.nop14 zp) := rfl
theorem LengthIsEncodedLength.oraZpX (zp : Byte) : LengthIsEncodedLength.Statement (.oraZpX zp) := rfl
theorem LengthIsEncodedLength.aslZpX (zp : Byte) : LengthIsEncodedLength.Statement (.aslZpX zp) := rfl
theorem LengthIsEncodedLength.sloZpX (zp : Byte) : LengthIsEncodedLength.Statement (.sloZpX zp) := rfl
theorem LengthIsEncodedLength.oraAbsY (addr : Addr) : LengthIsEncodedLength.Statement (.oraAbsY addr) := rfl
theorem LengthIsEncodedLength.sloAbsY (addr : Addr) : LengthIsEncodedLength.Statement (.sloAbsY addr) := rfl
theorem LengthIsEncodedLength.nop1C (addr : Addr) : LengthIsEncodedLength.Statement (.nop1C addr) := rfl
theorem LengthIsEncodedLength.oraAbsX (addr : Addr) : LengthIsEncodedLength.Statement (.oraAbsX addr) := rfl
theorem LengthIsEncodedLength.aslAbsX (addr : Addr) : LengthIsEncodedLength.Statement (.aslAbsX addr) := rfl
theorem LengthIsEncodedLength.sloAbsX (addr : Addr) : LengthIsEncodedLength.Statement (.sloAbsX addr) := rfl
theorem LengthIsEncodedLength.jsr (addr : Addr) : LengthIsEncodedLength.Statement (.jsr addr) := rfl
theorem LengthIsEncodedLength.andIndX (zp : Byte) : LengthIsEncodedLength.Statement (.andIndX zp) := rfl
theorem LengthIsEncodedLength.rlaIndX (zp : Byte) : LengthIsEncodedLength.Statement (.rlaIndX zp) := rfl
theorem LengthIsEncodedLength.bitZp (zp : Byte) : LengthIsEncodedLength.Statement (.bitZp zp) := rfl
theorem LengthIsEncodedLength.andZp (zp : Byte) : LengthIsEncodedLength.Statement (.andZp zp) := rfl
theorem LengthIsEncodedLength.rolZp (zp : Byte) : LengthIsEncodedLength.Statement (.rolZp zp) := rfl
theorem LengthIsEncodedLength.rlaZp (zp : Byte) : LengthIsEncodedLength.Statement (.rlaZp zp) := rfl
theorem LengthIsEncodedLength.andImm (imm : Byte) : LengthIsEncodedLength.Statement (.andImm imm) := rfl
theorem LengthIsEncodedLength.anc2B (imm : Byte) : LengthIsEncodedLength.Statement (.anc2B imm) := rfl
theorem LengthIsEncodedLength.bitAbs (addr : Addr) : LengthIsEncodedLength.Statement (.bitAbs addr) := rfl
theorem LengthIsEncodedLength.andAbs (addr : Addr) : LengthIsEncodedLength.Statement (.andAbs addr) := rfl
theorem LengthIsEncodedLength.rolAbs (addr : Addr) : LengthIsEncodedLength.Statement (.rolAbs addr) := rfl
theorem LengthIsEncodedLength.rlaAbs (addr : Addr) : LengthIsEncodedLength.Statement (.rlaAbs addr) := rfl
theorem LengthIsEncodedLength.bmi (offset : Byte) : LengthIsEncodedLength.Statement (.bmi offset) := rfl
theorem LengthIsEncodedLength.andIndY (zp : Byte) : LengthIsEncodedLength.Statement (.andIndY zp) := rfl
theorem LengthIsEncodedLength.rlaIndY (zp : Byte) : LengthIsEncodedLength.Statement (.rlaIndY zp) := rfl
theorem LengthIsEncodedLength.nop34 (zp : Byte) : LengthIsEncodedLength.Statement (.nop34 zp) := rfl
theorem LengthIsEncodedLength.andZpX (zp : Byte) : LengthIsEncodedLength.Statement (.andZpX zp) := rfl
theorem LengthIsEncodedLength.rolZpX (zp : Byte) : LengthIsEncodedLength.Statement (.rolZpX zp) := rfl
theorem LengthIsEncodedLength.rlaZpX (zp : Byte) : LengthIsEncodedLength.Statement (.rlaZpX zp) := rfl
theorem LengthIsEncodedLength.andAbsY (addr : Addr) : LengthIsEncodedLength.Statement (.andAbsY addr) := rfl
theorem LengthIsEncodedLength.rlaAbsY (addr : Addr) : LengthIsEncodedLength.Statement (.rlaAbsY addr) := rfl
theorem LengthIsEncodedLength.nop3C (addr : Addr) : LengthIsEncodedLength.Statement (.nop3C addr) := rfl
theorem LengthIsEncodedLength.andAbsX (addr : Addr) : LengthIsEncodedLength.Statement (.andAbsX addr) := rfl
theorem LengthIsEncodedLength.rolAbsX (addr : Addr) : LengthIsEncodedLength.Statement (.rolAbsX addr) := rfl
theorem LengthIsEncodedLength.rlaAbsX (addr : Addr) : LengthIsEncodedLength.Statement (.rlaAbsX addr) := rfl
theorem LengthIsEncodedLength.eorIndX (zp : Byte) : LengthIsEncodedLength.Statement (.eorIndX zp) := rfl
theorem LengthIsEncodedLength.sreIndX (zp : Byte) : LengthIsEncodedLength.Statement (.sreIndX zp) := rfl
theorem LengthIsEncodedLength.nop44 (zp : Byte) : LengthIsEncodedLength.Statement (.nop44 zp) := rfl
theorem LengthIsEncodedLength.eorZp (zp : Byte) : LengthIsEncodedLength.Statement (.eorZp zp) := rfl
theorem LengthIsEncodedLength.lsrZp (zp : Byte) : LengthIsEncodedLength.Statement (.lsrZp zp) := rfl
theorem LengthIsEncodedLength.sreZp (zp : Byte) : LengthIsEncodedLength.Statement (.sreZp zp) := rfl
theorem LengthIsEncodedLength.eorImm (imm : Byte) : LengthIsEncodedLength.Statement (.eorImm imm) := rfl
theorem LengthIsEncodedLength.alr (imm : Byte) : LengthIsEncodedLength.Statement (.alr imm) := rfl
theorem LengthIsEncodedLength.jmpAbs (addr : Addr) : LengthIsEncodedLength.Statement (.jmpAbs addr) := rfl
theorem LengthIsEncodedLength.eorAbs (addr : Addr) : LengthIsEncodedLength.Statement (.eorAbs addr) := rfl
theorem LengthIsEncodedLength.lsrAbs (addr : Addr) : LengthIsEncodedLength.Statement (.lsrAbs addr) := rfl
theorem LengthIsEncodedLength.sreAbs (addr : Addr) : LengthIsEncodedLength.Statement (.sreAbs addr) := rfl
theorem LengthIsEncodedLength.bvc (offset : Byte) : LengthIsEncodedLength.Statement (.bvc offset) := rfl
theorem LengthIsEncodedLength.eorIndY (zp : Byte) : LengthIsEncodedLength.Statement (.eorIndY zp) := rfl
theorem LengthIsEncodedLength.sreIndY (zp : Byte) : LengthIsEncodedLength.Statement (.sreIndY zp) := rfl
theorem LengthIsEncodedLength.nop54 (zp : Byte) : LengthIsEncodedLength.Statement (.nop54 zp) := rfl
theorem LengthIsEncodedLength.eorZpX (zp : Byte) : LengthIsEncodedLength.Statement (.eorZpX zp) := rfl
theorem LengthIsEncodedLength.lsrZpX (zp : Byte) : LengthIsEncodedLength.Statement (.lsrZpX zp) := rfl
theorem LengthIsEncodedLength.sreZpX (zp : Byte) : LengthIsEncodedLength.Statement (.sreZpX zp) := rfl
theorem LengthIsEncodedLength.eorAbsY (addr : Addr) : LengthIsEncodedLength.Statement (.eorAbsY addr) := rfl
theorem LengthIsEncodedLength.sreAbsY (addr : Addr) : LengthIsEncodedLength.Statement (.sreAbsY addr) := rfl
theorem LengthIsEncodedLength.nop5C (addr : Addr) : LengthIsEncodedLength.Statement (.nop5C addr) := rfl
theorem LengthIsEncodedLength.eorAbsX (addr : Addr) : LengthIsEncodedLength.Statement (.eorAbsX addr) := rfl
theorem LengthIsEncodedLength.lsrAbsX (addr : Addr) : LengthIsEncodedLength.Statement (.lsrAbsX addr) := rfl
theorem LengthIsEncodedLength.sreAbsX (addr : Addr) : LengthIsEncodedLength.Statement (.sreAbsX addr) := rfl
theorem LengthIsEncodedLength.adcIndX (zp : Byte) : LengthIsEncodedLength.Statement (.adcIndX zp) := rfl
theorem LengthIsEncodedLength.rraIndX (zp : Byte) : LengthIsEncodedLength.Statement (.rraIndX zp) := rfl
theorem LengthIsEncodedLength.nop64 (zp : Byte) : LengthIsEncodedLength.Statement (.nop64 zp) := rfl
theorem LengthIsEncodedLength.adcZp (zp : Byte) : LengthIsEncodedLength.Statement (.adcZp zp) := rfl
theorem LengthIsEncodedLength.rorZp (zp : Byte) : LengthIsEncodedLength.Statement (.rorZp zp) := rfl
theorem LengthIsEncodedLength.rraZp (zp : Byte) : LengthIsEncodedLength.Statement (.rraZp zp) := rfl
theorem LengthIsEncodedLength.adcImm (imm : Byte) : LengthIsEncodedLength.Statement (.adcImm imm) := rfl
theorem LengthIsEncodedLength.arr (imm : Byte) : LengthIsEncodedLength.Statement (.arr imm) := rfl
theorem LengthIsEncodedLength.jmpInd (addr : Addr) : LengthIsEncodedLength.Statement (.jmpInd addr) := rfl
theorem LengthIsEncodedLength.adcAbs (addr : Addr) : LengthIsEncodedLength.Statement (.adcAbs addr) := rfl
theorem LengthIsEncodedLength.rorAbs (addr : Addr) : LengthIsEncodedLength.Statement (.rorAbs addr) := rfl
theorem LengthIsEncodedLength.rraAbs (addr : Addr) : LengthIsEncodedLength.Statement (.rraAbs addr) := rfl
theorem LengthIsEncodedLength.bvs (offset : Byte) : LengthIsEncodedLength.Statement (.bvs offset) := rfl
theorem LengthIsEncodedLength.adcIndY (zp : Byte) : LengthIsEncodedLength.Statement (.adcIndY zp) := rfl
theorem LengthIsEncodedLength.rraIndY (zp : Byte) : LengthIsEncodedLength.Statement (.rraIndY zp) := rfl
theorem LengthIsEncodedLength.nop74 (zp : Byte) : LengthIsEncodedLength.Statement (.nop74 zp) := rfl
theorem LengthIsEncodedLength.adcZpX (zp : Byte) : LengthIsEncodedLength.Statement (.adcZpX zp) := rfl
theorem LengthIsEncodedLength.rorZpX (zp : Byte) : LengthIsEncodedLength.Statement (.rorZpX zp) := rfl
theorem LengthIsEncodedLength.rraZpX (zp : Byte) : LengthIsEncodedLength.Statement (.rraZpX zp) := rfl
theorem LengthIsEncodedLength.adcAbsY (addr : Addr) : LengthIsEncodedLength.Statement (.adcAbsY addr) := rfl
theorem LengthIsEncodedLength.rraAbsY (addr : Addr) : LengthIsEncodedLength.Statement (.rraAbsY addr) := rfl
theorem LengthIsEncodedLength.nop7C (addr : Addr) : LengthIsEncodedLength.Statement (.nop7C addr) := rfl
theorem LengthIsEncodedLength.adcAbsX (addr : Addr) : LengthIsEncodedLength.Statement (.adcAbsX addr) := rfl
theorem LengthIsEncodedLength.rorAbsX (addr : Addr) : LengthIsEncodedLength.Statement (.rorAbsX addr) := rfl
theorem LengthIsEncodedLength.rraAbsX (addr : Addr) : LengthIsEncodedLength.Statement (.rraAbsX addr) := rfl
theorem LengthIsEncodedLength.nop80 (imm : Byte) : LengthIsEncodedLength.Statement (.nop80 imm) := rfl
theorem LengthIsEncodedLength.staIndX (zp : Byte) : LengthIsEncodedLength.Statement (.staIndX zp) := rfl
theorem LengthIsEncodedLength.nop82 (imm : Byte) : LengthIsEncodedLength.Statement (.nop82 imm) := rfl
theorem LengthIsEncodedLength.saxIndX (zp : Byte) : LengthIsEncodedLength.Statement (.saxIndX zp) := rfl
theorem LengthIsEncodedLength.styZp (zp : Byte) : LengthIsEncodedLength.Statement (.styZp zp) := rfl
theorem LengthIsEncodedLength.staZp (zp : Byte) : LengthIsEncodedLength.Statement (.staZp zp) := rfl
theorem LengthIsEncodedLength.stxZp (zp : Byte) : LengthIsEncodedLength.Statement (.stxZp zp) := rfl
theorem LengthIsEncodedLength.saxZp (zp : Byte) : LengthIsEncodedLength.Statement (.saxZp zp) := rfl
theorem LengthIsEncodedLength.nop89 (imm : Byte) : LengthIsEncodedLength.Statement (.nop89 imm) := rfl
theorem LengthIsEncodedLength.styAbs (addr : Addr) : LengthIsEncodedLength.Statement (.styAbs addr) := rfl
theorem LengthIsEncodedLength.staAbs (addr : Addr) : LengthIsEncodedLength.Statement (.staAbs addr) := rfl
theorem LengthIsEncodedLength.stxAbs (addr : Addr) : LengthIsEncodedLength.Statement (.stxAbs addr) := rfl
theorem LengthIsEncodedLength.saxAbs (addr : Addr) : LengthIsEncodedLength.Statement (.saxAbs addr) := rfl
theorem LengthIsEncodedLength.bcc (offset : Byte) : LengthIsEncodedLength.Statement (.bcc offset) := rfl
theorem LengthIsEncodedLength.staIndY (zp : Byte) : LengthIsEncodedLength.Statement (.staIndY zp) := rfl
theorem LengthIsEncodedLength.shaIndY (zp : Byte) : LengthIsEncodedLength.Statement (.shaIndY zp) := rfl
theorem LengthIsEncodedLength.styZpX (zp : Byte) : LengthIsEncodedLength.Statement (.styZpX zp) := rfl
theorem LengthIsEncodedLength.staZpX (zp : Byte) : LengthIsEncodedLength.Statement (.staZpX zp) := rfl
theorem LengthIsEncodedLength.stxZpY (zp : Byte) : LengthIsEncodedLength.Statement (.stxZpY zp) := rfl
theorem LengthIsEncodedLength.saxZpY (zp : Byte) : LengthIsEncodedLength.Statement (.saxZpY zp) := rfl
theorem LengthIsEncodedLength.staAbsY (addr : Addr) : LengthIsEncodedLength.Statement (.staAbsY addr) := rfl
theorem LengthIsEncodedLength.tas (addr : Addr) : LengthIsEncodedLength.Statement (.tas addr) := rfl
theorem LengthIsEncodedLength.shy (addr : Addr) : LengthIsEncodedLength.Statement (.shy addr) := rfl
theorem LengthIsEncodedLength.staAbsX (addr : Addr) : LengthIsEncodedLength.Statement (.staAbsX addr) := rfl
theorem LengthIsEncodedLength.shx (addr : Addr) : LengthIsEncodedLength.Statement (.shx addr) := rfl
theorem LengthIsEncodedLength.shaAbsY (addr : Addr) : LengthIsEncodedLength.Statement (.shaAbsY addr) := rfl
theorem LengthIsEncodedLength.ldyImm (imm : Byte) : LengthIsEncodedLength.Statement (.ldyImm imm) := rfl
theorem LengthIsEncodedLength.ldaIndX (zp : Byte) : LengthIsEncodedLength.Statement (.ldaIndX zp) := rfl
theorem LengthIsEncodedLength.ldxImm (imm : Byte) : LengthIsEncodedLength.Statement (.ldxImm imm) := rfl
theorem LengthIsEncodedLength.laxIndX (zp : Byte) : LengthIsEncodedLength.Statement (.laxIndX zp) := rfl
theorem LengthIsEncodedLength.ldyZp (zp : Byte) : LengthIsEncodedLength.Statement (.ldyZp zp) := rfl
theorem LengthIsEncodedLength.ldaZp (zp : Byte) : LengthIsEncodedLength.Statement (.ldaZp zp) := rfl
theorem LengthIsEncodedLength.ldxZp (zp : Byte) : LengthIsEncodedLength.Statement (.ldxZp zp) := rfl
theorem LengthIsEncodedLength.laxZp (zp : Byte) : LengthIsEncodedLength.Statement (.laxZp zp) := rfl
theorem LengthIsEncodedLength.ldaImm (imm : Byte) : LengthIsEncodedLength.Statement (.ldaImm imm) := rfl
theorem LengthIsEncodedLength.ldyAbs (addr : Addr) : LengthIsEncodedLength.Statement (.ldyAbs addr) := rfl
theorem LengthIsEncodedLength.ldaAbs (addr : Addr) : LengthIsEncodedLength.Statement (.ldaAbs addr) := rfl
theorem LengthIsEncodedLength.ldxAbs (addr : Addr) : LengthIsEncodedLength.Statement (.ldxAbs addr) := rfl
theorem LengthIsEncodedLength.laxAbs (addr : Addr) : LengthIsEncodedLength.Statement (.laxAbs addr) := rfl
theorem LengthIsEncodedLength.bcs (offset : Byte) : LengthIsEncodedLength.Statement (.bcs offset) := rfl
theorem LengthIsEncodedLength.ldaIndY (zp : Byte) : LengthIsEncodedLength.Statement (.ldaIndY zp) := rfl
theorem LengthIsEncodedLength.laxIndY (zp : Byte) : LengthIsEncodedLength.Statement (.laxIndY zp) := rfl
theorem LengthIsEncodedLength.ldyZpX (zp : Byte) : LengthIsEncodedLength.Statement (.ldyZpX zp) := rfl
theorem LengthIsEncodedLength.ldaZpX (zp : Byte) : LengthIsEncodedLength.Statement (.ldaZpX zp) := rfl
theorem LengthIsEncodedLength.ldxZpY (zp : Byte) : LengthIsEncodedLength.Statement (.ldxZpY zp) := rfl
theorem LengthIsEncodedLength.laxZpY (zp : Byte) : LengthIsEncodedLength.Statement (.laxZpY zp) := rfl
theorem LengthIsEncodedLength.ldaAbsY (addr : Addr) : LengthIsEncodedLength.Statement (.ldaAbsY addr) := rfl
theorem LengthIsEncodedLength.las (addr : Addr) : LengthIsEncodedLength.Statement (.las addr) := rfl
theorem LengthIsEncodedLength.ldyAbsX (addr : Addr) : LengthIsEncodedLength.Statement (.ldyAbsX addr) := rfl
theorem LengthIsEncodedLength.ldaAbsX (addr : Addr) : LengthIsEncodedLength.Statement (.ldaAbsX addr) := rfl
theorem LengthIsEncodedLength.ldxAbsY (addr : Addr) : LengthIsEncodedLength.Statement (.ldxAbsY addr) := rfl
theorem LengthIsEncodedLength.laxAbsY (addr : Addr) : LengthIsEncodedLength.Statement (.laxAbsY addr) := rfl
theorem LengthIsEncodedLength.cpyImm (imm : Byte) : LengthIsEncodedLength.Statement (.cpyImm imm) := rfl
theorem LengthIsEncodedLength.cmpIndX (zp : Byte) : LengthIsEncodedLength.Statement (.cmpIndX zp) := rfl
theorem LengthIsEncodedLength.nopC2 (imm : Byte) : LengthIsEncodedLength.Statement (.nopC2 imm) := rfl
theorem LengthIsEncodedLength.dcpIndX (zp : Byte) : LengthIsEncodedLength.Statement (.dcpIndX zp) := rfl
theorem LengthIsEncodedLength.cpyZp (zp : Byte) : LengthIsEncodedLength.Statement (.cpyZp zp) := rfl
theorem LengthIsEncodedLength.cmpZp (zp : Byte) : LengthIsEncodedLength.Statement (.cmpZp zp) := rfl
theorem LengthIsEncodedLength.decZp (zp : Byte) : LengthIsEncodedLength.Statement (.decZp zp) := rfl
theorem LengthIsEncodedLength.dcpZp (zp : Byte) : LengthIsEncodedLength.Statement (.dcpZp zp) := rfl
theorem LengthIsEncodedLength.cmpImm (imm : Byte) : LengthIsEncodedLength.Statement (.cmpImm imm) := rfl
theorem LengthIsEncodedLength.sbx (imm : Byte) : LengthIsEncodedLength.Statement (.sbx imm) := rfl
theorem LengthIsEncodedLength.cpyAbs (addr : Addr) : LengthIsEncodedLength.Statement (.cpyAbs addr) := rfl
theorem LengthIsEncodedLength.cmpAbs (addr : Addr) : LengthIsEncodedLength.Statement (.cmpAbs addr) := rfl
theorem LengthIsEncodedLength.decAbs (addr : Addr) : LengthIsEncodedLength.Statement (.decAbs addr) := rfl
theorem LengthIsEncodedLength.dcpAbs (addr : Addr) : LengthIsEncodedLength.Statement (.dcpAbs addr) := rfl
theorem LengthIsEncodedLength.bne (offset : Byte) : LengthIsEncodedLength.Statement (.bne offset) := rfl
theorem LengthIsEncodedLength.cmpIndY (zp : Byte) : LengthIsEncodedLength.Statement (.cmpIndY zp) := rfl
theorem LengthIsEncodedLength.dcpIndY (zp : Byte) : LengthIsEncodedLength.Statement (.dcpIndY zp) := rfl
theorem LengthIsEncodedLength.nopD4 (zp : Byte) : LengthIsEncodedLength.Statement (.nopD4 zp) := rfl
theorem LengthIsEncodedLength.cmpZpX (zp : Byte) : LengthIsEncodedLength.Statement (.cmpZpX zp) := rfl
theorem LengthIsEncodedLength.decZpX (zp : Byte) : LengthIsEncodedLength.Statement (.decZpX zp) := rfl
theorem LengthIsEncodedLength.dcpZpX (zp : Byte) : LengthIsEncodedLength.Statement (.dcpZpX zp) := rfl
theorem LengthIsEncodedLength.cmpAbsY (addr : Addr) : LengthIsEncodedLength.Statement (.cmpAbsY addr) := rfl
theorem LengthIsEncodedLength.dcpAbsY (addr : Addr) : LengthIsEncodedLength.Statement (.dcpAbsY addr) := rfl
theorem LengthIsEncodedLength.nopDC (addr : Addr) : LengthIsEncodedLength.Statement (.nopDC addr) := rfl
theorem LengthIsEncodedLength.cmpAbsX (addr : Addr) : LengthIsEncodedLength.Statement (.cmpAbsX addr) := rfl
theorem LengthIsEncodedLength.decAbsX (addr : Addr) : LengthIsEncodedLength.Statement (.decAbsX addr) := rfl
theorem LengthIsEncodedLength.dcpAbsX (addr : Addr) : LengthIsEncodedLength.Statement (.dcpAbsX addr) := rfl
theorem LengthIsEncodedLength.cpxImm (imm : Byte) : LengthIsEncodedLength.Statement (.cpxImm imm) := rfl
theorem LengthIsEncodedLength.sbcIndX (zp : Byte) : LengthIsEncodedLength.Statement (.sbcIndX zp) := rfl
theorem LengthIsEncodedLength.nopE2 (imm : Byte) : LengthIsEncodedLength.Statement (.nopE2 imm) := rfl
theorem LengthIsEncodedLength.iscIndX (zp : Byte) : LengthIsEncodedLength.Statement (.iscIndX zp) := rfl
theorem LengthIsEncodedLength.cpxZp (zp : Byte) : LengthIsEncodedLength.Statement (.cpxZp zp) := rfl
theorem LengthIsEncodedLength.sbcZp (zp : Byte) : LengthIsEncodedLength.Statement (.sbcZp zp) := rfl
theorem LengthIsEncodedLength.incZp (zp : Byte) : LengthIsEncodedLength.Statement (.incZp zp) := rfl
theorem LengthIsEncodedLength.iscZp (zp : Byte) : LengthIsEncodedLength.Statement (.iscZp zp) := rfl
theorem LengthIsEncodedLength.sbcImm (imm : Byte) : LengthIsEncodedLength.Statement (.sbcImm imm) := rfl
theorem LengthIsEncodedLength.sbcEB (imm : Byte) : LengthIsEncodedLength.Statement (.sbcEB imm) := rfl
theorem LengthIsEncodedLength.cpxAbs (addr : Addr) : LengthIsEncodedLength.Statement (.cpxAbs addr) := rfl
theorem LengthIsEncodedLength.sbcAbs (addr : Addr) : LengthIsEncodedLength.Statement (.sbcAbs addr) := rfl
theorem LengthIsEncodedLength.incAbs (addr : Addr) : LengthIsEncodedLength.Statement (.incAbs addr) := rfl
theorem LengthIsEncodedLength.iscAbs (addr : Addr) : LengthIsEncodedLength.Statement (.iscAbs addr) := rfl
theorem LengthIsEncodedLength.beq (offset : Byte) : LengthIsEncodedLength.Statement (.beq offset) := rfl
theorem LengthIsEncodedLength.sbcIndY (zp : Byte) : LengthIsEncodedLength.Statement (.sbcIndY zp) := rfl
theorem LengthIsEncodedLength.iscIndY (zp : Byte) : LengthIsEncodedLength.Statement (.iscIndY zp) := rfl
theorem LengthIsEncodedLength.nopF4 (zp : Byte) : LengthIsEncodedLength.Statement (.nopF4 zp) := rfl
theorem LengthIsEncodedLength.sbcZpX (zp : Byte) : LengthIsEncodedLength.Statement (.sbcZpX zp) := rfl
theorem LengthIsEncodedLength.incZpX (zp : Byte) : LengthIsEncodedLength.Statement (.incZpX zp) := rfl
theorem LengthIsEncodedLength.iscZpX (zp : Byte) : LengthIsEncodedLength.Statement (.iscZpX zp) := rfl
theorem LengthIsEncodedLength.sbcAbsY (addr : Addr) : LengthIsEncodedLength.Statement (.sbcAbsY addr) := rfl
theorem LengthIsEncodedLength.iscAbsY (addr : Addr) : LengthIsEncodedLength.Statement (.iscAbsY addr) := rfl
theorem LengthIsEncodedLength.nopFC (addr : Addr) : LengthIsEncodedLength.Statement (.nopFC addr) := rfl
theorem LengthIsEncodedLength.sbcAbsX (addr : Addr) : LengthIsEncodedLength.Statement (.sbcAbsX addr) := rfl
theorem LengthIsEncodedLength.incAbsX (addr : Addr) : LengthIsEncodedLength.Statement (.incAbsX addr) := rfl
theorem LengthIsEncodedLength.iscAbsX (addr : Addr) : LengthIsEncodedLength.Statement (.iscAbsX addr) := rfl
theorem LengthIsEncodedLength.brk : LengthIsEncodedLength.Statement (.brk) := rfl
theorem LengthIsEncodedLength.jam02 : LengthIsEncodedLength.Statement (.jam02) := rfl
theorem LengthIsEncodedLength.php : LengthIsEncodedLength.Statement (.php) := rfl
theorem LengthIsEncodedLength.aslAcc : LengthIsEncodedLength.Statement (.aslAcc) := rfl
theorem LengthIsEncodedLength.jam12 : LengthIsEncodedLength.Statement (.jam12) := rfl
theorem LengthIsEncodedLength.clc : LengthIsEncodedLength.Statement (.clc) := rfl
theorem LengthIsEncodedLength.nop1A : LengthIsEncodedLength.Statement (.nop1A) := rfl
theorem LengthIsEncodedLength.jam22 : LengthIsEncodedLength.Statement (.jam22) := rfl
theorem LengthIsEncodedLength.plp : LengthIsEncodedLength.Statement (.plp) := rfl
theorem LengthIsEncodedLength.rolAcc : LengthIsEncodedLength.Statement (.rolAcc) := rfl
theorem LengthIsEncodedLength.jam32 : LengthIsEncodedLength.Statement (.jam32) := rfl
theorem LengthIsEncodedLength.sec : LengthIsEncodedLength.Statement (.sec) := rfl
theorem LengthIsEncodedLength.nop3A : LengthIsEncodedLength.Statement (.nop3A) := rfl
theorem LengthIsEncodedLength.rti : LengthIsEncodedLength.Statement (.rti) := rfl
theorem LengthIsEncodedLength.jam42 : LengthIsEncodedLength.Statement (.jam42) := rfl
theorem LengthIsEncodedLength.pha : LengthIsEncodedLength.Statement (.pha) := rfl
theorem LengthIsEncodedLength.lsrAcc : LengthIsEncodedLength.Statement (.lsrAcc) := rfl
theorem LengthIsEncodedLength.jam52 : LengthIsEncodedLength.Statement (.jam52) := rfl
theorem LengthIsEncodedLength.cli : LengthIsEncodedLength.Statement (.cli) := rfl
theorem LengthIsEncodedLength.nop5A : LengthIsEncodedLength.Statement (.nop5A) := rfl
theorem LengthIsEncodedLength.rts : LengthIsEncodedLength.Statement (.rts) := rfl
theorem LengthIsEncodedLength.jam62 : LengthIsEncodedLength.Statement (.jam62) := rfl
theorem LengthIsEncodedLength.pla : LengthIsEncodedLength.Statement (.pla) := rfl
theorem LengthIsEncodedLength.rorAcc : LengthIsEncodedLength.Statement (.rorAcc) := rfl
theorem LengthIsEncodedLength.jam72 : LengthIsEncodedLength.Statement (.jam72) := rfl
theorem LengthIsEncodedLength.sei : LengthIsEncodedLength.Statement (.sei) := rfl
theorem LengthIsEncodedLength.nop7A : LengthIsEncodedLength.Statement (.nop7A) := rfl
theorem LengthIsEncodedLength.dey : LengthIsEncodedLength.Statement (.dey) := rfl
theorem LengthIsEncodedLength.txa : LengthIsEncodedLength.Statement (.txa) := rfl
theorem LengthIsEncodedLength.ane : LengthIsEncodedLength.Statement (.ane) := rfl
theorem LengthIsEncodedLength.jam92 : LengthIsEncodedLength.Statement (.jam92) := rfl
theorem LengthIsEncodedLength.tya : LengthIsEncodedLength.Statement (.tya) := rfl
theorem LengthIsEncodedLength.txs : LengthIsEncodedLength.Statement (.txs) := rfl
theorem LengthIsEncodedLength.tay : LengthIsEncodedLength.Statement (.tay) := rfl
theorem LengthIsEncodedLength.tax : LengthIsEncodedLength.Statement (.tax) := rfl
theorem LengthIsEncodedLength.laxAB : LengthIsEncodedLength.Statement (.laxAB) := rfl
theorem LengthIsEncodedLength.jamB2 : LengthIsEncodedLength.Statement (.jamB2) := rfl
theorem LengthIsEncodedLength.clv : LengthIsEncodedLength.Statement (.clv) := rfl
theorem LengthIsEncodedLength.tsx : LengthIsEncodedLength.Statement (.tsx) := rfl
theorem LengthIsEncodedLength.iny : LengthIsEncodedLength.Statement (.iny) := rfl
theorem LengthIsEncodedLength.dex : LengthIsEncodedLength.Statement (.dex) := rfl
theorem LengthIsEncodedLength.jamD2 : LengthIsEncodedLength.Statement (.jamD2) := rfl
theorem LengthIsEncodedLength.cld : LengthIsEncodedLength.Statement (.cld) := rfl
theorem LengthIsEncodedLength.nopDA : LengthIsEncodedLength.Statement (.nopDA) := rfl
theorem LengthIsEncodedLength.inx : LengthIsEncodedLength.Statement (.inx) := rfl
theorem LengthIsEncodedLength.nop : LengthIsEncodedLength.Statement (.nop) := rfl
theorem LengthIsEncodedLength.jamF2 : LengthIsEncodedLength.Statement (.jamF2) := rfl
theorem LengthIsEncodedLength.sed : LengthIsEncodedLength.Statement (.sed) := rfl
theorem LengthIsEncodedLength.nopFA : LengthIsEncodedLength.Statement (.nopFA) := rfl

end Sys2Proof.Laws
end

