-- ==== Sys2Proof/Laws/Run.lean ====
section
/-!
SUPPORT. For each operation of `Machine/Run.lean` one lemma that says what it can do.
-/

namespace Sys2Proof.Machine

@[simp] theorem Run.start_state (s : State) : (Run.start s).state = s := rfl
@[simp] theorem Run.start_executed (s : State) : (Run.start s).executed = 0 := rfl
@[simp] theorem Run.start_last (s : State) : (Run.start s).last = none := rfl

/-- The next step of a run is the machine's step; it records what the step executed. -/
theorem Run.next_next {r r' : Run} (h : r.next = .next r') :
    step r.state = .next r'.state ∧ r'.last = r.state.nextInstruction ∧
      r'.executed = r.executed + r.state.nextInstruction.toList.length := by
  obtain ⟨t, h₁, h₂⟩ := andThen_eq_next.mp h
  cases h₂
  exact ⟨h₁, rfl, rfl⟩

/-- The instruction at PC is the one the fetch answers. -/
theorem State.atPc_some {s : State} {i : Instr} (h : s.atPc = some i) : ∃ t, s.fetch = .next (i, t) := by
  unfold State.atPc at h
  split at h
  · next f hf => cases h; exact ⟨f.2, hf⟩
  · cases h
  · cases h

/-- The instruction the next step executes is the one it fetches, with nothing else due. -/
theorem State.nextInstruction_some {s : State} {i : Instr} (h : s.nextInstruction = some i) :
    s.sampleInputs.due = .instruction ∧ ∃ t, s.sampleInputs.fetch = .next (i, t) := by
  unfold State.nextInstruction at h
  split at h
  · next hd => exact ⟨hd, State.atPc_some h⟩
  all_goals cases h

/-- A step that executes an instruction answers what exec answers from the state of the fetch, its cycles counted. -/
theorem step_of_nextInstruction {s t : State} {i : Instr} (h : s.nextInstruction = some i) (ht : step s = .next t) :
    ∃ u v, s.sampleInputs.fetch = .next (i, u) ∧ exec i u = .next v ∧ t = v.addCycles (cyclesOf i u) := by
  obtain ⟨hd, u, hu⟩ := State.nextInstruction_some h
  simp only [step, hd, hu, andThen_next] at ht
  obtain ⟨v, hv, h₂⟩ := andThen_eq_next.mp ht
  cases h₂
  exact ⟨u, v, hu, hv, rfl⟩

/-- A run that `runUntil` calls ended meets the end condition. -/
theorem runUntil_ended {e : EndOfRun} {k : Nat} {r r' : Run} (h : runUntil e k r = .ended r') : e r' = true := by
  induction k generalizing r with
  | zero =>
    unfold runUntil at h
    split at h
    · next he => cases h; exact he
    · cases h
  | succ k ih =>
    unfold runUntil at h
    split at h
    · next he => cases h; exact he
    · split at h
      · exact ih h
      · cases h
      · cases h

/-- A run that `runUntil` calls a fault has not met the end condition, and its next step is that fault. -/
theorem runUntil_fault {e : EndOfRun} {why : Fault} {k : Nat} {r r' : Run} (h : runUntil e k r = .fault why r') :
    e r' = false ∧ r'.next = .fault why := by
  induction k generalizing r with
  | zero =>
    unfold runUntil at h
    split at h <;> cases h
  | succ k ih =>
    unfold runUntil at h
    split at h
    · cases h
    · next he =>
      split at h
      · exact ih h
      · next f hf => cases h; exact ⟨by simpa using he, hf⟩
      · cases h

/-- A run that `runUntil` calls refused has not met the end condition, and its next step is refused for that reason. -/
theorem runUntil_refused {e : EndOfRun} {why : Refusal} {k : Nat} {r r' : Run} (h : runUntil e k r = .refused why r') :
    e r' = false ∧ r'.next = .refused why := by
  induction k generalizing r with
  | zero =>
    unfold runUntil at h
    split at h <;> cases h
  | succ k ih =>
    unfold runUntil at h
    split at h
    · cases h
    · next he =>
      split at h
      · exact ih h
      · cases h
      · next f hf => cases h; exact ⟨by simpa using he, hf⟩

end Sys2Proof.Machine
end

