-- ==== Sys2Proof/Tests/Slice0.lean ====
section
/-!
SUPPORT. Tests of the model: what the well-formedness checks refuse, the decoding of every opcode byte, one step of each
instruction on vectors of the spec, and for every statement with hypotheses a witness that meets them.
-/

namespace Sys2Proof.Tests

open Sys2Proof.Machine Sys2Proof.Statements

set_option maxRecDepth 4000

/-! ## Well-formedness: an ill-formed term for each check, which the check refuses. -/

/-- ADC has no Zero Page,Y form; STA has no immediate form; a well-formed neighbour is accepted. -/
theorem test_wellFormed_mode :
    Form.hasMode ⟨.adc, .read (.memory (.zeroPageY 0x44))⟩ = false ∧ Form.hasMode ⟨.jmp, .implied⟩ = false ∧
    Form.hasMode ⟨.adc, .read (.memory (.zeroPageX 0x44))⟩ = true := by decide

/-- LDA does not write its operand; INC does not only read it; a well-formed neighbour is accepted. -/
theorem test_wellFormed_access :
    Form.hasAccess ⟨.lda, .write (.zeroPage 0x44)⟩ = false ∧ Form.hasAccess ⟨.inc, .read (.memory (.zeroPage 0x44))⟩ = false ∧
    Form.hasAccess ⟨.lda, .read (.memory (.zeroPage 0x44))⟩ = true := by decide

/-- Both checks stand behind the well-formedness of a form. -/
theorem test_wellFormed_form :
    Form.wellFormed ⟨.adc, .read (.memory (.zeroPageY 0x44))⟩ = false ∧ Form.wellFormed ⟨.lda, .write (.zeroPage 0x44)⟩ = false ∧
    Instr.wellFormed (.adcZpX 0x44) = true := by decide

/-- A line of a memory map is neither empty nor beyond the address space. -/
theorem test_wellFormed_region :
    Region.wellFormed ⟨0xD000, 0, .rom⟩ = false ∧ Region.wellFormed ⟨0xFFFF, 2, .rom⟩ = false ∧
    Region.wellFormed ⟨0xFFFF, 1, .rom⟩ = true := by decide

/-- Two lines do not overlap. -/
theorem test_wellFormed_memMap :
    memMapWellFormed [⟨0xD000, 0x100, .rom⟩, ⟨0xD0FF, 1, .device false⟩] = false ∧
    Region.disjoint ⟨0xD000, 0x100, .rom⟩ ⟨0xD0FF, 1, .device false⟩ = false ∧
    memMapWellFormed [⟨0xD000, 0x100, .rom⟩, ⟨0xD100, 1, .device false⟩] = true := by decide

/-- The memory check refuses addresses that do not rise, that repeat, and that lie beyond the address space. -/
theorem test_memory_wf :
    Memory.wf [(2, 0), (1, 0)] = false ∧ Memory.wf [(1, 0), (1, 1)] = false ∧ Memory.wf [(65536, 0)] = false ∧
    Memory.wf [(0, 0), (65535, 1)] = true := by decide

/-- The machine before a step of a test. -/
def start : State := { State.reset with pc := 0x0200 }

/-- The bytes stand at PC, and a step answers a state of which `p` holds. -/
def stepFrom (s : State) (bytes : List Byte) (p : State → Bool) : Bool :=
  match step { s with mem := Memory.load s.mem s.pc bytes } with
  | .next t => p t
  | _ => false

/-- The bytes stand at PC, and a step is this fault. -/
def stepFaults (s : State) (bytes : List Byte) (why : Fault) : Bool :=
  match step { s with mem := Memory.load s.mem s.pc bytes } with
  | .fault f => decide (f = why)
  | _ => false

/-- The bytes stand at PC, and a step is refused for this reason. -/
def stepRefuses (s : State) (bytes : List Byte) (why : Refusal) : Bool :=
  match step { s with mem := Memory.load s.mem s.pc bytes } with
  | .refused f => decide (f = why)
  | _ => false

/-- The machine before a step of a test, with the defaults of rule R5. -/
def defaults : State := { start with params := Params.specDefaults }

/-- One step of a run answers a run of which `p` holds. -/
def runFrom (s : State) (p : Run → Bool) : Bool :=
  match (Run.start s).next with
  | .next r => p r
  | _ => false

/-- The run ended after this many instructions. -/
def endedAfter (n : Nat) : RunEnd → Bool
  | .ended r => decide (r.executed = n)
  | _ => false

/-- The run ended in this fault. -/
def faultedWith (why : Fault) : RunEnd → Bool
  | .fault f _ => decide (f = why)
  | _ => false

/-! ## Decoding: for every opcode byte of `spec/opcode_table.json` (its `match` and `format`; G15 for the matrix-only rows) the
bytes are written out, low operand byte first (rule R32), with `34 12` after the opcode byte. One theorem for each row of
rule R66. -/

theorem test_decode_row_0 :
    decode [0x00, 0x34, 0x12] = .ok .brk [0x34, 0x12] ∧
    decode [0x01, 0x34, 0x12] = .ok (.oraIndX 0x34) [0x12] ∧
    decode [0x02, 0x34, 0x12] = .ok .jam02 [0x34, 0x12] ∧
    decode [0x03, 0x34, 0x12] = .ok (.sloIndX 0x34) [0x12] ∧
    decode [0x04, 0x34, 0x12] = .ok (.nop04 0x34) [0x12] ∧
    decode [0x05, 0x34, 0x12] = .ok (.oraZp 0x34) [0x12] ∧
    decode [0x06, 0x34, 0x12] = .ok (.aslZp 0x34) [0x12] ∧
    decode [0x07, 0x34, 0x12] = .ok (.sloZp 0x34) [0x12] ∧
    decode [0x08, 0x34, 0x12] = .ok .php [0x34, 0x12] ∧
    decode [0x09, 0x34, 0x12] = .ok (.oraImm 0x34) [0x12] ∧
    decode [0x0A, 0x34, 0x12] = .ok .aslAcc [0x34, 0x12] ∧
    decode [0x0B, 0x34, 0x12] = .ok (.anc0B 0x34) [0x12] ∧
    decode [0x0C, 0x34, 0x12] = .ok (.nop0C 0x1234) [] ∧
    decode [0x0D, 0x34, 0x12] = .ok (.oraAbs 0x1234) [] ∧
    decode [0x0E, 0x34, 0x12] = .ok (.aslAbs 0x1234) [] ∧
    decode [0x0F, 0x34, 0x12] = .ok (.sloAbs 0x1234) [] := by
  decide

theorem test_decode_row_1 :
    decode [0x10, 0x34, 0x12] = .ok (.bpl 0x34) [0x12] ∧
    decode [0x11, 0x34, 0x12] = .ok (.oraIndY 0x34) [0x12] ∧
    decode [0x12, 0x34, 0x12] = .ok .jam12 [0x34, 0x12] ∧
    decode [0x13, 0x34, 0x12] = .ok (.sloIndY 0x34) [0x12] ∧
    decode [0x14, 0x34, 0x12] = .ok (.nop14 0x34) [0x12] ∧
    decode [0x15, 0x34, 0x12] = .ok (.oraZpX 0x34) [0x12] ∧
    decode [0x16, 0x34, 0x12] = .ok (.aslZpX 0x34) [0x12] ∧
    decode [0x17, 0x34, 0x12] = .ok (.sloZpX 0x34) [0x12] ∧
    decode [0x18, 0x34, 0x12] = .ok .clc [0x34, 0x12] ∧
    decode [0x19, 0x34, 0x12] = .ok (.oraAbsY 0x1234) [] ∧
    decode [0x1A, 0x34, 0x12] = .ok .nop1A [0x34, 0x12] ∧
    decode [0x1B, 0x34, 0x12] = .ok (.sloAbsY 0x1234) [] ∧
    decode [0x1C, 0x34, 0x12] = .ok (.nop1C 0x1234) [] ∧
    decode [0x1D, 0x34, 0x12] = .ok (.oraAbsX 0x1234) [] ∧
    decode [0x1E, 0x34, 0x12] = .ok (.aslAbsX 0x1234) [] ∧
    decode [0x1F, 0x34, 0x12] = .ok (.sloAbsX 0x1234) [] := by
  decide

theorem test_decode_row_2 :
    decode [0x20, 0x34, 0x12] = .ok (.jsr 0x1234) [] ∧
    decode [0x21, 0x34, 0x12] = .ok (.andIndX 0x34) [0x12] ∧
    decode [0x22, 0x34, 0x12] = .ok .jam22 [0x34, 0x12] ∧
    decode [0x23, 0x34, 0x12] = .ok (.rlaIndX 0x34) [0x12] ∧
    decode [0x24, 0x34, 0x12] = .ok (.bitZp 0x34) [0x12] ∧
    decode [0x25, 0x34, 0x12] = .ok (.andZp 0x34) [0x12] ∧
    decode [0x26, 0x34, 0x12] = .ok (.rolZp 0x34) [0x12] ∧
    decode [0x27, 0x34, 0x12] = .ok (.rlaZp 0x34) [0x12] ∧
    decode [0x28, 0x34, 0x12] = .ok .plp [0x34, 0x12] ∧
    decode [0x29, 0x34, 0x12] = .ok (.andImm 0x34) [0x12] ∧
    decode [0x2A, 0x34, 0x12] = .ok .rolAcc [0x34, 0x12] ∧
    decode [0x2B, 0x34, 0x12] = .ok (.anc2B 0x34) [0x12] ∧
    decode [0x2C, 0x34, 0x12] = .ok (.bitAbs 0x1234) [] ∧
    decode [0x2D, 0x34, 0x12] = .ok (.andAbs 0x1234) [] ∧
    decode [0x2E, 0x34, 0x12] = .ok (.rolAbs 0x1234) [] ∧
    decode [0x2F, 0x34, 0x12] = .ok (.rlaAbs 0x1234) [] := by
  decide

theorem test_decode_row_3 :
    decode [0x30, 0x34, 0x12] = .ok (.bmi 0x34) [0x12] ∧
    decode [0x31, 0x34, 0x12] = .ok (.andIndY 0x34) [0x12] ∧
    decode [0x32, 0x34, 0x12] = .ok .jam32 [0x34, 0x12] ∧
    decode [0x33, 0x34, 0x12] = .ok (.rlaIndY 0x34) [0x12] ∧
    decode [0x34, 0x34, 0x12] = .ok (.nop34 0x34) [0x12] ∧
    decode [0x35, 0x34, 0x12] = .ok (.andZpX 0x34) [0x12] ∧
    decode [0x36, 0x34, 0x12] = .ok (.rolZpX 0x34) [0x12] ∧
    decode [0x37, 0x34, 0x12] = .ok (.rlaZpX 0x34) [0x12] ∧
    decode [0x38, 0x34, 0x12] = .ok .sec [0x34, 0x12] ∧
    decode [0x39, 0x34, 0x12] = .ok (.andAbsY 0x1234) [] ∧
    decode [0x3A, 0x34, 0x12] = .ok .nop3A [0x34, 0x12] ∧
    decode [0x3B, 0x34, 0x12] = .ok (.rlaAbsY 0x1234) [] ∧
    decode [0x3C, 0x34, 0x12] = .ok (.nop3C 0x1234) [] ∧
    decode [0x3D, 0x34, 0x12] = .ok (.andAbsX 0x1234) [] ∧
    decode [0x3E, 0x34, 0x12] = .ok (.rolAbsX 0x1234) [] ∧
    decode [0x3F, 0x34, 0x12] = .ok (.rlaAbsX 0x1234) [] := by
  decide

theorem test_decode_row_4 :
    decode [0x40, 0x34, 0x12] = .ok .rti [0x34, 0x12] ∧
    decode [0x41, 0x34, 0x12] = .ok (.eorIndX 0x34) [0x12] ∧
    decode [0x42, 0x34, 0x12] = .ok .jam42 [0x34, 0x12] ∧
    decode [0x43, 0x34, 0x12] = .ok (.sreIndX 0x34) [0x12] ∧
    decode [0x44, 0x34, 0x12] = .ok (.nop44 0x34) [0x12] ∧
    decode [0x45, 0x34, 0x12] = .ok (.eorZp 0x34) [0x12] ∧
    decode [0x46, 0x34, 0x12] = .ok (.lsrZp 0x34) [0x12] ∧
    decode [0x47, 0x34, 0x12] = .ok (.sreZp 0x34) [0x12] ∧
    decode [0x48, 0x34, 0x12] = .ok .pha [0x34, 0x12] ∧
    decode [0x49, 0x34, 0x12] = .ok (.eorImm 0x34) [0x12] ∧
    decode [0x4A, 0x34, 0x12] = .ok .lsrAcc [0x34, 0x12] ∧
    decode [0x4B, 0x34, 0x12] = .ok (.alr 0x34) [0x12] ∧
    decode [0x4C, 0x34, 0x12] = .ok (.jmpAbs 0x1234) [] ∧
    decode [0x4D, 0x34, 0x12] = .ok (.eorAbs 0x1234) [] ∧
    decode [0x4E, 0x34, 0x12] = .ok (.lsrAbs 0x1234) [] ∧
    decode [0x4F, 0x34, 0x12] = .ok (.sreAbs 0x1234) [] := by
  decide

theorem test_decode_row_5 :
    decode [0x50, 0x34, 0x12] = .ok (.bvc 0x34) [0x12] ∧
    decode [0x51, 0x34, 0x12] = .ok (.eorIndY 0x34) [0x12] ∧
    decode [0x52, 0x34, 0x12] = .ok .jam52 [0x34, 0x12] ∧
    decode [0x53, 0x34, 0x12] = .ok (.sreIndY 0x34) [0x12] ∧
    decode [0x54, 0x34, 0x12] = .ok (.nop54 0x34) [0x12] ∧
    decode [0x55, 0x34, 0x12] = .ok (.eorZpX 0x34) [0x12] ∧
    decode [0x56, 0x34, 0x12] = .ok (.lsrZpX 0x34) [0x12] ∧
    decode [0x57, 0x34, 0x12] = .ok (.sreZpX 0x34) [0x12] ∧
    decode [0x58, 0x34, 0x12] = .ok .cli [0x34, 0x12] ∧
    decode [0x59, 0x34, 0x12] = .ok (.eorAbsY 0x1234) [] ∧
    decode [0x5A, 0x34, 0x12] = .ok .nop5A [0x34, 0x12] ∧
    decode [0x5B, 0x34, 0x12] = .ok (.sreAbsY 0x1234) [] ∧
    decode [0x5C, 0x34, 0x12] = .ok (.nop5C 0x1234) [] ∧
    decode [0x5D, 0x34, 0x12] = .ok (.eorAbsX 0x1234) [] ∧
    decode [0x5E, 0x34, 0x12] = .ok (.lsrAbsX 0x1234) [] ∧
    decode [0x5F, 0x34, 0x12] = .ok (.sreAbsX 0x1234) [] := by
  decide

theorem test_decode_row_6 :
    decode [0x60, 0x34, 0x12] = .ok .rts [0x34, 0x12] ∧
    decode [0x61, 0x34, 0x12] = .ok (.adcIndX 0x34) [0x12] ∧
    decode [0x62, 0x34, 0x12] = .ok .jam62 [0x34, 0x12] ∧
    decode [0x63, 0x34, 0x12] = .ok (.rraIndX 0x34) [0x12] ∧
    decode [0x64, 0x34, 0x12] = .ok (.nop64 0x34) [0x12] ∧
    decode [0x65, 0x34, 0x12] = .ok (.adcZp 0x34) [0x12] ∧
    decode [0x66, 0x34, 0x12] = .ok (.rorZp 0x34) [0x12] ∧
    decode [0x67, 0x34, 0x12] = .ok (.rraZp 0x34) [0x12] ∧
    decode [0x68, 0x34, 0x12] = .ok .pla [0x34, 0x12] ∧
    decode [0x69, 0x34, 0x12] = .ok (.adcImm 0x34) [0x12] ∧
    decode [0x6A, 0x34, 0x12] = .ok .rorAcc [0x34, 0x12] ∧
    decode [0x6B, 0x34, 0x12] = .ok (.arr 0x34) [0x12] ∧
    decode [0x6C, 0x34, 0x12] = .ok (.jmpInd 0x1234) [] ∧
    decode [0x6D, 0x34, 0x12] = .ok (.adcAbs 0x1234) [] ∧
    decode [0x6E, 0x34, 0x12] = .ok (.rorAbs 0x1234) [] ∧
    decode [0x6F, 0x34, 0x12] = .ok (.rraAbs 0x1234) [] := by
  decide

theorem test_decode_row_7 :
    decode [0x70, 0x34, 0x12] = .ok (.bvs 0x34) [0x12] ∧
    decode [0x71, 0x34, 0x12] = .ok (.adcIndY 0x34) [0x12] ∧
    decode [0x72, 0x34, 0x12] = .ok .jam72 [0x34, 0x12] ∧
    decode [0x73, 0x34, 0x12] = .ok (.rraIndY 0x34) [0x12] ∧
    decode [0x74, 0x34, 0x12] = .ok (.nop74 0x34) [0x12] ∧
    decode [0x75, 0x34, 0x12] = .ok (.adcZpX 0x34) [0x12] ∧
    decode [0x76, 0x34, 0x12] = .ok (.rorZpX 0x34) [0x12] ∧
    decode [0x77, 0x34, 0x12] = .ok (.rraZpX 0x34) [0x12] ∧
    decode [0x78, 0x34, 0x12] = .ok .sei [0x34, 0x12] ∧
    decode [0x79, 0x34, 0x12] = .ok (.adcAbsY 0x1234) [] ∧
    decode [0x7A, 0x34, 0x12] = .ok .nop7A [0x34, 0x12] ∧
    decode [0x7B, 0x34, 0x12] = .ok (.rraAbsY 0x1234) [] ∧
    decode [0x7C, 0x34, 0x12] = .ok (.nop7C 0x1234) [] ∧
    decode [0x7D, 0x34, 0x12] = .ok (.adcAbsX 0x1234) [] ∧
    decode [0x7E, 0x34, 0x12] = .ok (.rorAbsX 0x1234) [] ∧
    decode [0x7F, 0x34, 0x12] = .ok (.rraAbsX 0x1234) [] := by
  decide

theorem test_decode_row_8 :
    decode [0x80, 0x34, 0x12] = .ok (.nop80 0x34) [0x12] ∧
    decode [0x81, 0x34, 0x12] = .ok (.staIndX 0x34) [0x12] ∧
    decode [0x82, 0x34, 0x12] = .ok (.nop82 0x34) [0x12] ∧
    decode [0x83, 0x34, 0x12] = .ok (.saxIndX 0x34) [0x12] ∧
    decode [0x84, 0x34, 0x12] = .ok (.styZp 0x34) [0x12] ∧
    decode [0x85, 0x34, 0x12] = .ok (.staZp 0x34) [0x12] ∧
    decode [0x86, 0x34, 0x12] = .ok (.stxZp 0x34) [0x12] ∧
    decode [0x87, 0x34, 0x12] = .ok (.saxZp 0x34) [0x12] ∧
    decode [0x88, 0x34, 0x12] = .ok .dey [0x34, 0x12] ∧
    decode [0x89, 0x34, 0x12] = .ok (.nop89 0x34) [0x12] ∧
    decode [0x8A, 0x34, 0x12] = .ok .txa [0x34, 0x12] ∧
    decode [0x8B, 0x34, 0x12] = .ok .ane [0x34, 0x12] ∧
    decode [0x8C, 0x34, 0x12] = .ok (.styAbs 0x1234) [] ∧
    decode [0x8D, 0x34, 0x12] = .ok (.staAbs 0x1234) [] ∧
    decode [0x8E, 0x34, 0x12] = .ok (.stxAbs 0x1234) [] ∧
    decode [0x8F, 0x34, 0x12] = .ok (.saxAbs 0x1234) [] := by
  decide

theorem test_decode_row_9 :
    decode [0x90, 0x34, 0x12] = .ok (.bcc 0x34) [0x12] ∧
    decode [0x91, 0x34, 0x12] = .ok (.staIndY 0x34) [0x12] ∧
    decode [0x92, 0x34, 0x12] = .ok .jam92 [0x34, 0x12] ∧
    decode [0x93, 0x34, 0x12] = .ok (.shaIndY 0x34) [0x12] ∧
    decode [0x94, 0x34, 0x12] = .ok (.styZpX 0x34) [0x12] ∧
    decode [0x95, 0x34, 0x12] = .ok (.staZpX 0x34) [0x12] ∧
    decode [0x96, 0x34, 0x12] = .ok (.stxZpY 0x34) [0x12] ∧
    decode [0x97, 0x34, 0x12] = .ok (.saxZpY 0x34) [0x12] ∧
    decode [0x98, 0x34, 0x12] = .ok .tya [0x34, 0x12] ∧
    decode [0x99, 0x34, 0x12] = .ok (.staAbsY 0x1234) [] ∧
    decode [0x9A, 0x34, 0x12] = .ok .txs [0x34, 0x12] ∧
    decode [0x9B, 0x34, 0x12] = .ok (.tas 0x1234) [] ∧
    decode [0x9C, 0x34, 0x12] = .ok (.shy 0x1234) [] ∧
    decode [0x9D, 0x34, 0x12] = .ok (.staAbsX 0x1234) [] ∧
    decode [0x9E, 0x34, 0x12] = .ok (.shx 0x1234) [] ∧
    decode [0x9F, 0x34, 0x12] = .ok (.shaAbsY 0x1234) [] := by
  decide

theorem test_decode_row_A :
    decode [0xA0, 0x34, 0x12] = .ok (.ldyImm 0x34) [0x12] ∧
    decode [0xA1, 0x34, 0x12] = .ok (.ldaIndX 0x34) [0x12] ∧
    decode [0xA2, 0x34, 0x12] = .ok (.ldxImm 0x34) [0x12] ∧
    decode [0xA3, 0x34, 0x12] = .ok (.laxIndX 0x34) [0x12] ∧
    decode [0xA4, 0x34, 0x12] = .ok (.ldyZp 0x34) [0x12] ∧
    decode [0xA5, 0x34, 0x12] = .ok (.ldaZp 0x34) [0x12] ∧
    decode [0xA6, 0x34, 0x12] = .ok (.ldxZp 0x34) [0x12] ∧
    decode [0xA7, 0x34, 0x12] = .ok (.laxZp 0x34) [0x12] ∧
    decode [0xA8, 0x34, 0x12] = .ok .tay [0x34, 0x12] ∧
    decode [0xA9, 0x34, 0x12] = .ok (.ldaImm 0x34) [0x12] ∧
    decode [0xAA, 0x34, 0x12] = .ok .tax [0x34, 0x12] ∧
    decode [0xAB, 0x34, 0x12] = .ok .laxAB [0x34, 0x12] ∧
    decode [0xAC, 0x34, 0x12] = .ok (.ldyAbs 0x1234) [] ∧
    decode [0xAD, 0x34, 0x12] = .ok (.ldaAbs 0x1234) [] ∧
    decode [0xAE, 0x34, 0x12] = .ok (.ldxAbs 0x1234) [] ∧
    decode [0xAF, 0x34, 0x12] = .ok (.laxAbs 0x1234) [] := by
  decide

theorem test_decode_row_B :
    decode [0xB0, 0x34, 0x12] = .ok (.bcs 0x34) [0x12] ∧
    decode [0xB1, 0x34, 0x12] = .ok (.ldaIndY 0x34) [0x12] ∧
    decode [0xB2, 0x34, 0x12] = .ok .jamB2 [0x34, 0x12] ∧
    decode [0xB3, 0x34, 0x12] = .ok (.laxIndY 0x34) [0x12] ∧
    decode [0xB4, 0x34, 0x12] = .ok (.ldyZpX 0x34) [0x12] ∧
    decode [0xB5, 0x34, 0x12] = .ok (.ldaZpX 0x34) [0x12] ∧
    decode [0xB6, 0x34, 0x12] = .ok (.ldxZpY 0x34) [0x12] ∧
    decode [0xB7, 0x34, 0x12] = .ok (.laxZpY 0x34) [0x12] ∧
    decode [0xB8, 0x34, 0x12] = .ok .clv [0x34, 0x12] ∧
    decode [0xB9, 0x34, 0x12] = .ok (.ldaAbsY 0x1234) [] ∧
    decode [0xBA, 0x34, 0x12] = .ok .tsx [0x34, 0x12] ∧
    decode [0xBB, 0x34, 0x12] = .ok (.las 0x1234) [] ∧
    decode [0xBC, 0x34, 0x12] = .ok (.ldyAbsX 0x1234) [] ∧
    decode [0xBD, 0x34, 0x12] = .ok (.ldaAbsX 0x1234) [] ∧
    decode [0xBE, 0x34, 0x12] = .ok (.ldxAbsY 0x1234) [] ∧
    decode [0xBF, 0x34, 0x12] = .ok (.laxAbsY 0x1234) [] := by
  decide

theorem test_decode_row_C :
    decode [0xC0, 0x34, 0x12] = .ok (.cpyImm 0x34) [0x12] ∧
    decode [0xC1, 0x34, 0x12] = .ok (.cmpIndX 0x34) [0x12] ∧
    decode [0xC2, 0x34, 0x12] = .ok (.nopC2 0x34) [0x12] ∧
    decode [0xC3, 0x34, 0x12] = .ok (.dcpIndX 0x34) [0x12] ∧
    decode [0xC4, 0x34, 0x12] = .ok (.cpyZp 0x34) [0x12] ∧
    decode [0xC5, 0x34, 0x12] = .ok (.cmpZp 0x34) [0x12] ∧
    decode [0xC6, 0x34, 0x12] = .ok (.decZp 0x34) [0x12] ∧
    decode [0xC7, 0x34, 0x12] = .ok (.dcpZp 0x34) [0x12] ∧
    decode [0xC8, 0x34, 0x12] = .ok .iny [0x34, 0x12] ∧
    decode [0xC9, 0x34, 0x12] = .ok (.cmpImm 0x34) [0x12] ∧
    decode [0xCA, 0x34, 0x12] = .ok .dex [0x34, 0x12] ∧
    decode [0xCB, 0x34, 0x12] = .ok (.sbx 0x34) [0x12] ∧
    decode [0xCC, 0x34, 0x12] = .ok (.cpyAbs 0x1234) [] ∧
    decode [0xCD, 0x34, 0x12] = .ok (.cmpAbs 0x1234) [] ∧
    decode [0xCE, 0x34, 0x12] = .ok (.decAbs 0x1234) [] ∧
    decode [0xCF, 0x34, 0x12] = .ok (.dcpAbs 0x1234) [] := by
  decide

theorem test_decode_row_D :
    decode [0xD0, 0x34, 0x12] = .ok (.bne 0x34) [0x12] ∧
    decode [0xD1, 0x34, 0x12] = .ok (.cmpIndY 0x34) [0x12] ∧
    decode [0xD2, 0x34, 0x12] = .ok .jamD2 [0x34, 0x12] ∧
    decode [0xD3, 0x34, 0x12] = .ok (.dcpIndY 0x34) [0x12] ∧
    decode [0xD4, 0x34, 0x12] = .ok (.nopD4 0x34) [0x12] ∧
    decode [0xD5, 0x34, 0x12] = .ok (.cmpZpX 0x34) [0x12] ∧
    decode [0xD6, 0x34, 0x12] = .ok (.decZpX 0x34) [0x12] ∧
    decode [0xD7, 0x34, 0x12] = .ok (.dcpZpX 0x34) [0x12] ∧
    decode [0xD8, 0x34, 0x12] = .ok .cld [0x34, 0x12] ∧
    decode [0xD9, 0x34, 0x12] = .ok (.cmpAbsY 0x1234) [] ∧
    decode [0xDA, 0x34, 0x12] = .ok .nopDA [0x34, 0x12] ∧
    decode [0xDB, 0x34, 0x12] = .ok (.dcpAbsY 0x1234) [] ∧
    decode [0xDC, 0x34, 0x12] = .ok (.nopDC 0x1234) [] ∧
    decode [0xDD, 0x34, 0x12] = .ok (.cmpAbsX 0x1234) [] ∧
    decode [0xDE, 0x34, 0x12] = .ok (.decAbsX 0x1234) [] ∧
    decode [0xDF, 0x34, 0x12] = .ok (.dcpAbsX 0x1234) [] := by
  decide

theorem test_decode_row_E :
    decode [0xE0, 0x34, 0x12] = .ok (.cpxImm 0x34) [0x12] ∧
    decode [0xE1, 0x34, 0x12] = .ok (.sbcIndX 0x34) [0x12] ∧
    decode [0xE2, 0x34, 0x12] = .ok (.nopE2 0x34) [0x12] ∧
    decode [0xE3, 0x34, 0x12] = .ok (.iscIndX 0x34) [0x12] ∧
    decode [0xE4, 0x34, 0x12] = .ok (.cpxZp 0x34) [0x12] ∧
    decode [0xE5, 0x34, 0x12] = .ok (.sbcZp 0x34) [0x12] ∧
    decode [0xE6, 0x34, 0x12] = .ok (.incZp 0x34) [0x12] ∧
    decode [0xE7, 0x34, 0x12] = .ok (.iscZp 0x34) [0x12] ∧
    decode [0xE8, 0x34, 0x12] = .ok .inx [0x34, 0x12] ∧
    decode [0xE9, 0x34, 0x12] = .ok (.sbcImm 0x34) [0x12] ∧
    decode [0xEA, 0x34, 0x12] = .ok .nop [0x34, 0x12] ∧
    decode [0xEB, 0x34, 0x12] = .ok (.sbcEB 0x34) [0x12] ∧
    decode [0xEC, 0x34, 0x12] = .ok (.cpxAbs 0x1234) [] ∧
    decode [0xED, 0x34, 0x12] = .ok (.sbcAbs 0x1234) [] ∧
    decode [0xEE, 0x34, 0x12] = .ok (.incAbs 0x1234) [] ∧
    decode [0xEF, 0x34, 0x12] = .ok (.iscAbs 0x1234) [] := by
  decide

theorem test_decode_row_F :
    decode [0xF0, 0x34, 0x12] = .ok (.beq 0x34) [0x12] ∧
    decode [0xF1, 0x34, 0x12] = .ok (.sbcIndY 0x34) [0x12] ∧
    decode [0xF2, 0x34, 0x12] = .ok .jamF2 [0x34, 0x12] ∧
    decode [0xF3, 0x34, 0x12] = .ok (.iscIndY 0x34) [0x12] ∧
    decode [0xF4, 0x34, 0x12] = .ok (.nopF4 0x34) [0x12] ∧
    decode [0xF5, 0x34, 0x12] = .ok (.sbcZpX 0x34) [0x12] ∧
    decode [0xF6, 0x34, 0x12] = .ok (.incZpX 0x34) [0x12] ∧
    decode [0xF7, 0x34, 0x12] = .ok (.iscZpX 0x34) [0x12] ∧
    decode [0xF8, 0x34, 0x12] = .ok .sed [0x34, 0x12] ∧
    decode [0xF9, 0x34, 0x12] = .ok (.sbcAbsY 0x1234) [] ∧
    decode [0xFA, 0x34, 0x12] = .ok .nopFA [0x34, 0x12] ∧
    decode [0xFB, 0x34, 0x12] = .ok (.iscAbsY 0x1234) [] ∧
    decode [0xFC, 0x34, 0x12] = .ok (.nopFC 0x1234) [] ∧
    decode [0xFD, 0x34, 0x12] = .ok (.sbcAbsX 0x1234) [] ∧
    decode [0xFE, 0x34, 0x12] = .ok (.incAbsX 0x1234) [] ∧
    decode [0xFF, 0x34, 0x12] = .ok (.iscAbsX 0x1234) [] := by
  decide

/-! ## One step of each instruction,
  on the vectors of `95_test_vectors.md`; the name of a test gives the vector. Where a vector
allows two values (`draw`), the test sets the parameter that fixes one of them. -/

/-- ADC.12: `ADC #$80`. -/
theorem test_adc_ADC_12 :
    stepFrom { start with a := 0x80, c := false, d := false }
      [0x69, 0x80] (fun t => t.a = 0x00 ∧ t.n = false ∧ t.v = true ∧ t.z = true ∧ t.c = true ∧ t.pc = 0x0202 ∧
        t.cycles = 2) := by
  decide

/-- ADC.17: `ADC ($44),Y`. -/
theorem test_adc_ADC_17 :
    stepFrom { start with a := 0x21, c := true, d := false, y := 0x01, mem := [(0x0044, 0xFF), (0x0045, 0x44), (0x4500,
                          0x34)] }
      [0x71, 0x44] (fun t => t.a = 0x56 ∧ t.n = false ∧ t.v = false ∧ t.z = false ∧ t.c = false ∧ t.pc = 0x0202 ∧
        t.cycles = 6) := by
  decide

/-- SBC.14: `SBC #$FF`. -/
theorem test_sbc_SBC_14 :
    stepFrom { start with a := 0x00, c := false, d := false }
      [0xE9, 0xFF] (fun t => t.a = 0x00 ∧ t.n = false ∧ t.v = false ∧ t.z = true ∧ t.c = false ∧ t.pc = 0x0202 ∧
        t.cycles = 2) := by
  decide

/-- SBC.16: `SBC $4480,Y`. -/
theorem test_sbc_SBC_16 :
    stepFrom { start with a := 0x50, c := true, d := false, y := 0x80, mem := [(0x4500, 0x10)] }
      [0xF9, 0x80, 0x44] (fun t => t.a = 0x40 ∧ t.n = false ∧ t.v = false ∧ t.z = false ∧ t.c = true ∧ t.pc = 0x0203 ∧
        t.cycles = 5) := by
  decide

/-- LOG.8: `AND ($44),Y`. -/
theorem test_and_LOG_8 :
    stepFrom { start with a := 0xF0, y := 0x10, mem := [(0x0044, 0x70), (0x0045, 0x44), (0x4480, 0x8F)] }
      [0x31, 0x44] (fun t => t.a = 0x80 ∧ t.n = true ∧ t.z = false ∧ t.pc = 0x0202 ∧ t.cycles = 5) := by
  decide

/-- LOG.9: `AND #$F0`. -/
theorem test_and_LOG_9 :
    stepFrom { start with a := 0x0F }
      [0x29, 0xF0] (fun t => t.a = 0x00 ∧ t.n = false ∧ t.z = true ∧ t.pc = 0x0202 ∧ t.cycles = 2) := by
  decide

/-- LOG.13: `ORA $40,X`. -/
theorem test_ora_LOG_13 :
    stepFrom { start with a := 0x0F, x := 0x04, mem := [(0x0044, 0x80)] }
      [0x15, 0x40] (fun t => t.a = 0x8F ∧ t.n = true ∧ t.z = false ∧ t.pc = 0x0202 ∧ t.cycles = 4) := by
  decide

/-- LOG.24: `EOR $447C,X`. -/
theorem test_eor_LOG_24 :
    stepFrom { start with a := 0xAA, x := 0x04, mem := [(0x4480, 0xFF)] }
      [0x5D, 0x7C, 0x44] (fun t => t.a = 0x55 ∧ t.n = false ∧ t.z = false ∧ t.pc = 0x0203 ∧ t.cycles = 4) := by
  decide

/-- BIT.6: `BIT $44`. -/
theorem test_bit_BIT_6 :
    stepFrom { start with a := 0x40, mem := [(0x0044, 0x7F)] }
      [0x24, 0x44] (fun t => t.n = false ∧ t.v = true ∧ t.z = false ∧ t.pc = 0x0202 ∧ t.cycles = 3) := by
  decide

/-- SH.3: `ASL $40,X`. -/
theorem test_asl_SH_3 :
    stepFrom { start with a := 0x81, x := 0x04, mem := [(0x0044, 0x81)] }
      [0x16, 0x40] (fun t => t.n = false ∧ t.z = false ∧ t.c = true ∧ t.pc = 0x0202 ∧ t.peek 0x0044 = some 0x02 ∧
        t.cycles = 6) := by
  decide

/-- SH.6: `ASL A`. -/
theorem test_asl_SH_6 :
    stepFrom { start with a := 0x80 }
      [0x0A] (fun t => t.a = 0x00 ∧ t.n = false ∧ t.z = true ∧ t.c = true ∧ t.pc = 0x0201 ∧ t.cycles = 2) := by
  decide

/-- SH.10: `LSR $44`. -/
theorem test_lsr_SH_10 :
    stepFrom { start with a := 0x03, mem := [(0x0044, 0x03)] }
      [0x46, 0x44] (fun t => t.n = false ∧ t.z = false ∧ t.c = true ∧ t.pc = 0x0202 ∧ t.peek 0x0044 = some 0x01 ∧
        t.cycles = 5) := by
  decide

/-- SH.15: `LSR A`. -/
theorem test_lsr_SH_15 :
    stepFrom { start with a := 0x80 }
      [0x4A] (fun t => t.a = 0x40 ∧ t.n = false ∧ t.z = false ∧ t.c = false ∧ t.pc = 0x0201 ∧ t.cycles = 2) := by
  decide

/-- SH.20: `ROL $447C,X`. -/
theorem test_rol_SH_20 :
    stepFrom { start with a := 0x81, c := true, x := 0x04, mem := [(0x4480, 0x81)] }
      [0x3E, 0x7C, 0x44] (fun t => t.n = false ∧ t.z = false ∧ t.c = true ∧ t.pc = 0x0203 ∧ t.peek 0x4480 = some 0x03 ∧
        t.cycles = 7) := by
  decide

/-- SH.22: `ROL A`. -/
theorem test_rol_SH_22 :
    stepFrom { start with a := 0x00, c := true }
      [0x2A] (fun t => t.a = 0x01 ∧ t.n = false ∧ t.z = false ∧ t.c = false ∧ t.pc = 0x0201 ∧ t.cycles = 2) := by
  decide

/-- SH.25: `ROR $44`. -/
theorem test_ror_SH_25 :
    stepFrom { start with a := 0x01, c := true, mem := [(0x0044, 0x01)] }
      [0x66, 0x44] (fun t => t.n = true ∧ t.z = false ∧ t.c = true ∧ t.pc = 0x0202 ∧ t.peek 0x0044 = some 0x80 ∧
        t.cycles = 5) := by
  decide

/-- SH.31: `ROR A`. -/
theorem test_ror_SH_31 :
    stepFrom { start with a := 0xFE, c := false }
      [0x6A] (fun t => t.a = 0x7F ∧ t.n = false ∧ t.z = false ∧ t.c = false ∧ t.pc = 0x0201 ∧ t.cycles = 2) := by
  decide

/-- ID.5: `INC $44`. -/
theorem test_inc_ID_5 :
    stepFrom { start with mem := [(0x0044, 0xFF)] }
      [0xE6, 0x44] (fun t => t.n = false ∧ t.z = true ∧ t.pc = 0x0202 ∧ t.peek 0x0044 = some 0x00 ∧ t.cycles = 5) := by
  decide

/-- ID.11: `DEC $44`. -/
theorem test_dec_ID_11 :
    stepFrom { start with mem := [(0x0044, 0x00)] }
      [0xC6, 0x44] (fun t => t.n = true ∧ t.z = false ∧ t.pc = 0x0202 ∧ t.peek 0x0044 = some 0xFF ∧ t.cycles = 5) := by
  decide

/-- ID.13: `INX`. -/
theorem test_inx_ID_13 :
    stepFrom { start with x := 0xFF }
      [0xE8] (fun t => t.x = 0x00 ∧ t.n = false ∧ t.z = true ∧ t.pc = 0x0201 ∧ t.cycles = 2) := by
  decide

/-- ID.15: `DEX`. -/
theorem test_dex_ID_15 :
    stepFrom { start with x := 0x00 }
      [0xCA] (fun t => t.x = 0xFF ∧ t.n = true ∧ t.z = false ∧ t.pc = 0x0201 ∧ t.cycles = 2) := by
  decide

/-- ID.17: `INY`. -/
theorem test_iny_ID_17 :
    stepFrom { start with y := 0xFF }
      [0xC8] (fun t => t.y = 0x00 ∧ t.n = false ∧ t.z = true ∧ t.pc = 0x0201 ∧ t.cycles = 2) := by
  decide

/-- ID.19: `DEY`. -/
theorem test_dey_ID_19 :
    stepFrom { start with y := 0x00 }
      [0x88] (fun t => t.y = 0xFF ∧ t.n = true ∧ t.z = false ∧ t.pc = 0x0201 ∧ t.cycles = 2) := by
  decide

/-- CMP.16: `CMP #$00`. -/
theorem test_cmp_CMP_16 :
    stepFrom { start with a := 0xFF }
      [0xC9, 0x00] (fun t => t.n = true ∧ t.z = false ∧ t.c = true ∧ t.pc = 0x0202 ∧ t.cycles = 2) := by
  decide

/-- CMP.20: `CMP $4480,Y`. -/
theorem test_cmp_CMP_20 :
    stepFrom { start with a := 0x40, y := 0x80, mem := [(0x4500, 0x41)] }
      [0xD9, 0x80, 0x44] (fun t => t.n = true ∧ t.z = false ∧ t.c = false ∧ t.pc = 0x0203 ∧ t.cycles = 5) := by
  decide

/-- CMP.10: `CPX $44`. -/
theorem test_cpx_CMP_10 :
    stepFrom { start with x := 0x10, mem := [(0x0044, 0x20)] }
      [0xE4, 0x44] (fun t => t.n = true ∧ t.z = false ∧ t.c = false ∧ t.pc = 0x0202 ∧ t.cycles = 3) := by
  decide

/-- CMP.19: `CPY #$7F`. -/
theorem test_cpy_CMP_19 :
    stepFrom { start with y := 0x80 }
      [0xC0, 0x7F] (fun t => t.n = false ∧ t.z = false ∧ t.c = true ∧ t.pc = 0x0202 ∧ t.cycles = 2) := by
  decide

/-- AM.8: `LDA ($FE,X)`. -/
theorem test_lda_AM_8 :
    stepFrom { start with x := 0x01, mem := [(0x0000, 0x44), (0x00FF, 0x00), (0x4400, 0x18)] }
      [0xA1, 0xFE] (fun t => t.a = 0x18 ∧ t.n = false ∧ t.z = false ∧ t.pc = 0x0202 ∧ t.cycles = 6) := by
  decide

/-- AM.10: `LDA ($FF),Y`. -/
theorem test_lda_AM_10 :
    stepFrom { start with y := 0x01, mem := [(0x0000, 0x44), (0x00FF, 0x00), (0x4401, 0x1A)] }
      [0xB1, 0xFF] (fun t => t.a = 0x1A ∧ t.n = false ∧ t.z = false ∧ t.pc = 0x0202 ∧ t.cycles = 5) := by
  decide

/-- AM.3: `LDX $80,Y`. -/
theorem test_ldx_AM_3 :
    stepFrom { start with y := 0xFF, mem := [(0x007F, 0x13)] }
      [0xB6, 0x80] (fun t => t.x = 0x13 ∧ t.n = false ∧ t.z = false ∧ t.pc = 0x0202 ∧ t.cycles = 4) := by
  decide

/-- LD.13: `LDX $4470,Y`. -/
theorem test_ldx_LD_13 :
    stepFrom { start with y := 0x10, mem := [(0x4480, 0x00)] }
      [0xBE, 0x70, 0x44] (fun t => t.x = 0x00 ∧ t.n = false ∧ t.z = true ∧ t.pc = 0x0203 ∧ t.cycles = 4) := by
  decide

/-- LD.17: `LDY $4480`. -/
theorem test_ldy_LD_17 :
    stepFrom { start with mem := [(0x4480, 0x7F)] }
      [0xAC, 0x80, 0x44] (fun t => t.y = 0x7F ∧ t.n = false ∧ t.z = false ∧ t.pc = 0x0203 ∧ t.cycles = 4) := by
  decide

/-- LD.18: `LDY $447C,X`. -/
theorem test_ldy_LD_18 :
    stepFrom { start with x := 0x04, mem := [(0x4480, 0x7F)] }
      [0xBC, 0x7C, 0x44] (fun t => t.y = 0x7F ∧ t.n = false ∧ t.z = false ∧ t.pc = 0x0203 ∧ t.cycles = 4) := by
  decide

/-- ST.14: `STA $4401,X`. -/
theorem test_sta_ST_14 :
    stepFrom { start with a := 0x42, x := 0xFF }
      [0x9D, 0x01, 0x44] (fun t => t.pc = 0x0203 ∧ t.peek 0x4500 = some 0x42 ∧ t.cycles = 5) := by
  decide

/-- ST.15: `STA ($44),Y`. -/
theorem test_sta_ST_15 :
    stepFrom { start with a := 0x42, y := 0x01, mem := [(0x0044, 0xFF), (0x0045, 0x44)] }
      [0x91, 0x44] (fun t => t.pc = 0x0202 ∧ t.peek 0x4500 = some 0x42 ∧ t.cycles = 6) := by
  decide

/-- ST.9: `STX $34,Y`. -/
theorem test_stx_ST_9 :
    stepFrom { start with x := 0x43, y := 0x10 }
      [0x96, 0x34] (fun t => t.pc = 0x0202 ∧ t.peek 0x0044 = some 0x43 ∧ t.cycles = 4) := by
  decide

/-- ST.12: `STY $40,X`. -/
theorem test_sty_ST_12 :
    stepFrom { start with y := 0x44, x := 0x04 }
      [0x94, 0x40] (fun t => t.pc = 0x0202 ∧ t.peek 0x0044 = some 0x44 ∧ t.cycles = 4) := by
  decide

/-- BR.1: `BCC $0207`. -/
theorem test_bcc_BR_1 :
    stepFrom { start with c := false }
      [0x90, 0x05] (fun t => t.pc = 0x0207 ∧ t.cycles = 3) := by
  decide

/-- BR.17: `BCS $0200`. -/
theorem test_bcs_BR_17 :
    stepFrom { start with c := true }
      [0xB0, 0xFE] (fun t => t.pc = 0x0200 ∧ t.cycles = 3) := by
  decide

/-- BR.23: `BEQ $0202`. -/
theorem test_beq_BR_23 :
    stepFrom { start with z := true }
      [0xF0, 0x00] (fun t => t.pc = 0x0202 ∧ t.cycles = 3) := by
  decide

/-- BR.22: `BEQ $FFFF`. -/
theorem test_beq_BR_22 :
    stepFrom { start with pc := 0x0000, z := true }
      [0xF0, 0xFD] (fun t => t.pc = 0xFFFF ∧ t.cycles = 4) := by
  decide

/-- BR.20: `BNE $020D`. -/
theorem test_bne_BR_20 :
    stepFrom { start with pc := 0x0210, z := false }
      [0xD0, 0xFB] (fun t => t.pc = 0x020D ∧ t.cycles = 3) := by
  decide

/-- BR.7: `BNE $0207`. -/
theorem test_bne_BR_7 :
    stepFrom { start with z := false }
      [0xD0, 0x05] (fun t => t.pc = 0x0207 ∧ t.cycles = 3) := by
  decide

/-- BR.18: `BMI $0182`. -/
theorem test_bmi_BR_18 :
    stepFrom { start with n := true }
      [0x30, 0x80] (fun t => t.pc = 0x0182 ∧ t.cycles = 4) := by
  decide

/-- BR.19: `BPL $0281`. -/
theorem test_bpl_BR_19 :
    stepFrom { start with n := false }
      [0x10, 0x7F] (fun t => t.pc = 0x0281 ∧ t.cycles = 3) := by
  decide

/-- BR.13: `BVC $0207`. -/
theorem test_bvc_BR_13 :
    stepFrom { start with v := false }
      [0x50, 0x05] (fun t => t.pc = 0x0207 ∧ t.cycles = 3) := by
  decide

/-- BR.21: `BVS $0012`. -/
theorem test_bvs_BR_21 :
    stepFrom { start with pc := 0xFFF0, v := true }
      [0x70, 0x20] (fun t => t.pc = 0x0012 ∧ t.cycles = 4) := by
  decide

/-- S6.1: `JMP ($30FF)`. -/
theorem test_jmp_S6_1 :
    stepFrom { start with mem := [(0x3000, 0x40), (0x30FF, 0x80), (0x3100, 0x50)] }
      [0x6C, 0xFF, 0x30] (fun t => t.pc = 0x4080 ∧ t.cycles = 5) := by
  decide

/-- J.1: `JMP $5597`. -/
theorem test_jmp_J_1 :
    stepFrom start
      [0x4C, 0x97, 0x55] (fun t => t.pc = 0x5597 ∧ t.cycles = 3) := by
  decide

/-- J.6: `JSR $5597`. -/
theorem test_jsr_J_6 :
    stepFrom { start with pc := 0x0300, sp := 0x00 }
      [0x20, 0x97, 0x55] (fun t => t.sp = 0xFE ∧ t.pc = 0x5597 ∧ t.peek 0x0100 = some 0x03 ∧ t.peek 0x01FF = some 0x02 ∧
        t.cycles = 6) := by
  decide

/-- J.9: `RTS`. -/
theorem test_rts_J_9 :
    stepFrom { start with sp := 0xFF, mem := [(0x0100, 0x02), (0x0101, 0x03)] }
      [0x60] (fun t => t.sp = 0x01 ∧ t.pc = 0x0303 ∧ t.cycles = 6) := by
  decide

/-- BK.2: `BRK`. -/
theorem test_brk_BK_2 :
    stepFrom { start with pc := 0x0300, sp := 0x01, n := true, v := true, d := true, i := false, z := false, c := true,
                          mem := [(0xFFFE, 0x34), (0xFFFF, 0x12)] }
      [0x00] (fun t => t.sp = 0xFE ∧ t.i = true ∧ t.pc = 0x1234 ∧ t.peek 0x0101 = some 0x03 ∧ t.peek 0x0100 = some 0x02 ∧
        t.peek 0x01FF = some 0xF9 ∧ t.cycles = 7) := by
  decide

/-- BK.9: `RTI`. -/
theorem test_rti_BK_9 :
    stepFrom { start with sp := 0xFE, mem := [(0x0100, 0x34), (0x0101, 0x12), (0x01FF, 0xFF)] }
      [0x40] (fun t => t.sp = 0x01 ∧ t.n = true ∧ t.v = true ∧ t.d = true ∧ t.i = true ∧ t.z = true ∧ t.c = true ∧
        t.pc = 0x1234 ∧ t.cycles = 6) := by
  decide

/-- STK.2: `PHA`. -/
theorem test_pha_STK_2 :
    stepFrom { start with a := 0x42, sp := 0x00 }
      [0x48] (fun t => t.sp = 0xFF ∧ t.pc = 0x0201 ∧ t.peek 0x0100 = some 0x42 ∧ t.cycles = 3) := by
  decide

/-- STK.5: `PLA`. -/
theorem test_pla_STK_5 :
    stepFrom { start with sp := 0xFF, mem := [(0x0100, 0x7F)] }
      [0x68] (fun t => t.a = 0x7F ∧ t.sp = 0x00 ∧ t.n = false ∧ t.z = false ∧ t.pc = 0x0201 ∧ t.cycles = 4) := by
  decide

/-- STK.6: `PHP`. -/
theorem test_php_STK_6 :
    stepFrom { start with sp := 0xFF, n := true, v := false, d := false, i := true, z := false, c := true }
      [0x08] (fun t => t.sp = 0xFE ∧ t.pc = 0x0201 ∧ t.peek 0x01FF = some 0xB5 ∧ t.cycles = 3) := by
  decide

/-- STK.12: `PLP`. -/
theorem test_plp_STK_12 :
    stepFrom { start with sp := 0xFE, mem := [(0x01FF, 0xC3)] }
      [0x28] (fun t => t.sp = 0xFF ∧ t.n = true ∧ t.v = true ∧ t.d = false ∧ t.i = false ∧ t.z = true ∧ t.c = true ∧
        t.pc = 0x0201 ∧ t.cycles = 4) := by
  decide

/-- TR.1: `TAX`. -/
theorem test_tax_TR_1 :
    stepFrom { start with a := 0x00 }
      [0xAA] (fun t => t.x = 0x00 ∧ t.n = false ∧ t.z = true ∧ t.pc = 0x0201 ∧ t.cycles = 2) := by
  decide

/-- TR.2: `TAY`. -/
theorem test_tay_TR_2 :
    stepFrom { start with a := 0x80 }
      [0xA8] (fun t => t.y = 0x80 ∧ t.n = true ∧ t.z = false ∧ t.pc = 0x0201 ∧ t.cycles = 2) := by
  decide

/-- TR.3: `TXA`. -/
theorem test_txa_TR_3 :
    stepFrom { start with x := 0x7F }
      [0x8A] (fun t => t.a = 0x7F ∧ t.n = false ∧ t.z = false ∧ t.pc = 0x0201 ∧ t.cycles = 2) := by
  decide

/-- TR.4: `TYA`. -/
theorem test_tya_TR_4 :
    stepFrom { start with y := 0xFF }
      [0x98] (fun t => t.a = 0xFF ∧ t.n = true ∧ t.z = false ∧ t.pc = 0x0201 ∧ t.cycles = 2) := by
  decide

/-- TR.5: `TSX`. -/
theorem test_tsx_TR_5 :
    stepFrom { start with sp := 0xFF }
      [0xBA] (fun t => t.x = 0xFF ∧ t.n = true ∧ t.z = false ∧ t.pc = 0x0201 ∧ t.cycles = 2) := by
  decide

/-- TR.7: `TXS`. -/
theorem test_txs_TR_7 :
    stepFrom { start with x := 0x00 }
      [0x9A] (fun t => t.sp = 0x00 ∧ t.pc = 0x0201 ∧ t.cycles = 2) := by
  decide

/-- FL.1: `CLC`. -/
theorem test_clc_FL_1 :
    stepFrom { start with c := true }
      [0x18] (fun t => t.c = false ∧ t.pc = 0x0201 ∧ t.cycles = 2) := by
  decide

/-- FL.2: `SEC`. -/
theorem test_sec_FL_2 :
    stepFrom start
      [0x38] (fun t => t.c = true ∧ t.pc = 0x0201 ∧ t.cycles = 2) := by
  decide

/-- FL.3: `CLD`. -/
theorem test_cld_FL_3 :
    stepFrom start
      [0xD8] (fun t => t.d = false ∧ t.pc = 0x0201 ∧ t.cycles = 2) := by
  decide

/-- FL.4: `SED`. -/
theorem test_sed_FL_4 :
    stepFrom { start with d := false }
      [0xF8] (fun t => t.d = true ∧ t.pc = 0x0201 ∧ t.cycles = 2) := by
  decide

/-- FL.5: `CLI`. -/
theorem test_cli_FL_5 :
    stepFrom { start with i := true }
      [0x58] (fun t => t.i = false ∧ t.pc = 0x0201 ∧ t.cycles = 2) := by
  decide

/-- FL.6: `SEI`. -/
theorem test_sei_FL_6 :
    stepFrom { start with i := false }
      [0x78] (fun t => t.i = true ∧ t.pc = 0x0201 ∧ t.cycles = 2) := by
  decide

/-- FL.7: `CLV`. -/
theorem test_clv_FL_7 :
    stepFrom { start with v := true }
      [0xB8] (fun t => t.v = false ∧ t.pc = 0x0201 ∧ t.cycles = 2) := by
  decide

/-- FL.8: `NOP`. -/
theorem test_nop_FL_8 :
    stepFrom start
      [0xEA] (fun t => t.pc = 0x0201 ∧ t.cycles = 2) := by
  decide

/-- IL1.6: `SLO ($40,X)`. -/
theorem test_slo_IL1_6 :
    stepFrom { start with a := 0x01, x := 0x04, mem := [(0x0044, 0x80), (0x0045, 0x44), (0x4480, 0xC0)] }
      [0x03, 0x40] (fun t => t.a = 0x81 ∧ t.n = true ∧ t.z = false ∧ t.c = true ∧ t.pc = 0x0202 ∧ t.peek 0x4480 = some 0x80 ∧
        t.cycles = 8) := by
  decide

/-- IL1.9: `SLO $44`. -/
theorem test_slo_IL1_9 :
    stepFrom { start with a := 0xF0, mem := [(0x0044, 0x07)] }
      [0x07, 0x44] (fun t => t.a = 0xFE ∧ t.n = true ∧ t.z = false ∧ t.c = false ∧ t.pc = 0x0202 ∧
        t.peek 0x0044 = some 0x0E ∧ t.cycles = 5) := by
  decide

/-- IL1.10: `RLA $44`. -/
theorem test_rla_IL1_10 :
    stepFrom { start with a := 0x0F, c := true, mem := [(0x0044, 0x82)] }
      [0x27, 0x44] (fun t => t.a = 0x05 ∧ t.n = false ∧ t.z = false ∧ t.c = true ∧ t.pc = 0x0202 ∧
        t.peek 0x0044 = some 0x05 ∧ t.cycles = 5) := by
  decide

/-- IL1.18: `RLA $44`. -/
theorem test_rla_IL1_18 :
    stepFrom { start with a := 0x80, c := false, mem := [(0x0044, 0x40)] }
      [0x27, 0x44] (fun t => t.a = 0x80 ∧ t.n = true ∧ t.z = false ∧ t.c = false ∧ t.pc = 0x0202 ∧
        t.peek 0x0044 = some 0x80 ∧ t.cycles = 5) := by
  decide

/-- IL1.23: `SRE $447C,X`. -/
theorem test_sre_IL1_23 :
    stepFrom { start with a := 0xFF, x := 0x04, mem := [(0x4480, 0x03)] }
      [0x5F, 0x7C, 0x44] (fun t => t.a = 0xFE ∧ t.n = true ∧ t.z = false ∧ t.c = true ∧ t.pc = 0x0203 ∧
        t.peek 0x4480 = some 0x01 ∧ t.cycles = 7) := by
  decide

/-- IL1.28: `SRE $44`. -/
theorem test_sre_IL1_28 :
    stepFrom { start with a := 0x40, mem := [(0x0044, 0x80)] }
      [0x47, 0x44] (fun t => t.a = 0x00 ∧ t.n = false ∧ t.z = true ∧ t.c = false ∧ t.pc = 0x0202 ∧
        t.peek 0x0044 = some 0x40 ∧ t.cycles = 5) := by
  decide

/-- IL2.7: `RRA ($44),Y`. -/
theorem test_rra_IL2_7 :
    stepFrom { start with a := 0x10, c := false, d := false, y := 0x10, mem := [(0x0044, 0x70), (0x0045, 0x44), (0x4480,
                          0x03)] }
      [0x73, 0x44] (fun t => t.a = 0x12 ∧ t.n = false ∧ t.v = false ∧ t.z = false ∧ t.c = false ∧ t.pc = 0x0202 ∧
        t.peek 0x4480 = some 0x01 ∧ t.cycles = 8) := by
  decide

/-- IL2.9: `RRA $44`. -/
theorem test_rra_IL2_9 :
    stepFrom { start with a := 0x80, c := true, d := false, mem := [(0x0044, 0x01)] }
      [0x67, 0x44] (fun t => t.a = 0x01 ∧ t.n = false ∧ t.v = true ∧ t.z = false ∧ t.c = true ∧ t.pc = 0x0202 ∧
        t.peek 0x0044 = some 0x80 ∧ t.cycles = 5) := by
  decide

/-- IL2.19: `ISC $44`. -/
theorem test_isc_IL2_19 :
    stepFrom { start with a := 0x05, c := true, d := false, mem := [(0x0044, 0xFF)] }
      [0xE7, 0x44] (fun t => t.a = 0x05 ∧ t.n = false ∧ t.v = false ∧ t.z = false ∧ t.c = true ∧ t.pc = 0x0202 ∧
        t.peek 0x0044 = some 0x00 ∧ t.cycles = 5) := by
  decide

/-- IL2.20: `ISC $44`. -/
theorem test_isc_IL2_20 :
    stepFrom { start with a := 0x05, c := false, d := false, mem := [(0x0044, 0x04)] }
      [0xE7, 0x44] (fun t => t.a = 0xFF ∧ t.n = true ∧ t.v = false ∧ t.z = false ∧ t.c = false ∧ t.pc = 0x0202 ∧
        t.peek 0x0044 = some 0x05 ∧ t.cycles = 5) := by
  decide

/-- IL3.2: `SAX $34,Y`. -/
theorem test_sax_IL3_2 :
    stepFrom { start with a := 0xF0, x := 0x3C, y := 0x10 }
      [0x97, 0x34] (fun t => t.pc = 0x0202 ∧ t.peek 0x0044 = some 0x30 ∧ t.cycles = 4) := by
  decide

/-- IL3.4: `SAX ($08,X)`. -/
theorem test_sax_IL3_4 :
    stepFrom { start with a := 0xF0, x := 0x3C, mem := [(0x0044, 0x80), (0x0045, 0x44)] }
      [0x83, 0x08] (fun t => t.pc = 0x0202 ∧ t.peek 0x4480 = some 0x30 ∧ t.cycles = 6) := by
  decide

/-- IL3.13: `LAX $4480,Y`. -/
theorem test_lax_IL3_13 :
    stepFrom { start with y := 0x80, mem := [(0x4500, 0x7F)] }
      [0xBF, 0x80, 0x44] (fun t => t.a = 0x7F ∧ t.x = 0x7F ∧ t.n = false ∧ t.z = false ∧ t.pc = 0x0203 ∧ t.cycles = 5) := by
  decide

/-- IL3.14: `LAX ($40,X)`. -/
theorem test_lax_IL3_14 :
    stepFrom { start with x := 0x04, mem := [(0x0044, 0x80), (0x0045, 0x44), (0x4480, 0x55)] }
      [0xA3, 0x40] (fun t => t.a = 0x55 ∧ t.x = 0x55 ∧ t.n = false ∧ t.z = false ∧ t.pc = 0x0202 ∧ t.cycles = 6) := by
  decide

/-- IL4.8: `DCP $44`. -/
theorem test_dcp_IL4_8 :
    stepFrom { start with a := 0xFF, mem := [(0x0044, 0x00)] }
      [0xC7, 0x44] (fun t => t.n = false ∧ t.z = true ∧ t.c = true ∧ t.pc = 0x0202 ∧ t.peek 0x0044 = some 0xFF ∧
        t.cycles = 5) := by
  decide

/-- IL4.9: `DCP $44`. -/
theorem test_dcp_IL4_9 :
    stepFrom { start with a := 0x00, mem := [(0x0044, 0x00)] }
      [0xC7, 0x44] (fun t => t.n = false ∧ t.z = false ∧ t.c = false ∧ t.pc = 0x0202 ∧ t.peek 0x0044 = some 0xFF ∧
        t.cycles = 5) := by
  decide

/-- IL5.1: `ANC #$80`. -/
theorem test_anc_IL5_1 :
    stepFrom { start with a := 0xC3 }
      [0x0B, 0x80] (fun t => t.a = 0x80 ∧ t.n = true ∧ t.z = false ∧ t.c = true ∧ t.pc = 0x0202 ∧ t.cycles = 2) := by
  decide

/-- IL5.4: `ANC #$7F`. -/
theorem test_anc_IL5_4 :
    stepFrom { start with a := 0xFF }
      [0x2B, 0x7F] (fun t => t.a = 0x7F ∧ t.n = false ∧ t.z = false ∧ t.c = false ∧ t.pc = 0x0202 ∧ t.cycles = 2) := by
  decide

/-- IL5.6: `ALR #$FE`. -/
theorem test_alr_IL5_6 :
    stepFrom { start with a := 0xFF }
      [0x4B, 0xFE] (fun t => t.a = 0x7F ∧ t.n = false ∧ t.z = false ∧ t.c = false ∧ t.pc = 0x0202 ∧ t.cycles = 2) := by
  decide

/-- IL5.7: `ALR #$01`. -/
theorem test_alr_IL5_7 :
    stepFrom { start with a := 0x01 }
      [0x4B, 0x01] (fun t => t.a = 0x00 ∧ t.n = false ∧ t.z = true ∧ t.c = true ∧ t.pc = 0x0202 ∧ t.cycles = 2) := by
  decide

/-- IL5.10: `ARR #$FF`. -/
theorem test_arr_IL5_10 :
    stepFrom { start with a := 0x40, c := false, d := false, params := { Params.chosen with arrCarry := .bit6 } }
      [0x6B, 0xFF] (fun t => t.a = 0x20 ∧ t.n = false ∧ t.v = true ∧ t.z = false ∧ t.c = true ∧ t.pc = 0x0202 ∧
        t.cycles = 2) := by
  decide

/-- IL5.12: `ARR #$FF`. -/
theorem test_arr_IL5_12 :
    stepFrom { start with a := 0x3F, c := true, d := false, params := { Params.chosen with arrCarry := .bit7 } }
      [0x6B, 0xFF] (fun t => t.a = 0x9F ∧ t.n = true ∧ t.v = false ∧ t.z = false ∧ t.c = false ∧ t.pc = 0x0202 ∧
        t.cycles = 2) := by
  decide

/-- IL5.18: `SBX #$10`. -/
theorem test_sbx_IL5_18 :
    stepFrom { start with a := 0x05, x := 0x05 }
      [0xCB, 0x10] (fun t => t.x = 0xF5 ∧ t.n = true ∧ t.z = false ∧ t.c = false ∧ t.pc = 0x0202 ∧ t.cycles = 2) := by
  decide

/-- IL5.21: `SBX #$00`. -/
theorem test_sbx_IL5_21 :
    stepFrom { start with a := 0x0F, x := 0xF0 }
      [0xCB, 0x00] (fun t => t.x = 0x00 ∧ t.n = false ∧ t.z = true ∧ t.c = true ∧ t.pc = 0x0202 ∧ t.cycles = 2) := by
  decide

/-- UH.2: `SHA $FE00,Y`. -/
theorem test_sha_UH_2 :
    stepFrom { start with a := 0xFF, x := 0x0F, y := 0x01, params := { Params.chosen with rdyNeverLow := true } }
      [0x9F, 0x00, 0xFE] (fun t => t.pc = 0x0203 ∧ t.peek 0xFE01 = some 0x0F ∧ t.cycles = 5) := by
  decide

/-- UH.3: `SHA ($44),Y`. -/
theorem test_sha_UH_3 :
    stepFrom { start with a := 0xF5, x := 0x3D, y := 0x10, mem := [(0x0044, 0x00), (0x0045, 0x44)],
                          params := { Params.chosen with rdyNeverLow := true } }
      [0x93, 0x44] (fun t => t.pc = 0x0202 ∧ t.peek 0x4410 = some 0x05 ∧ t.cycles = 6) := by
  decide

/-- S9.1: `SHX $FE00,Y`. -/
theorem test_shx_S9_1 :
    stepFrom { start with x := 0xA5, y := 0x10, params := { Params.chosen with rdyNeverLow := true } }
      [0x9E, 0x00, 0xFE] (fun t => t.pc = 0x0203 ∧ t.peek 0xFE10 = some 0xA5 ∧ t.cycles = 5) := by
  decide

/-- UH.7: `SHX $FF00,Y`. -/
theorem test_shx_UH_7 :
    stepFrom { start with x := 0xFF, y := 0x02, params := { Params.chosen with rdyNeverLow := true } }
      [0x9E, 0x00, 0xFF] (fun t => t.pc = 0x0203 ∧ t.peek 0xFF02 = some 0x00 ∧ t.cycles = 5) := by
  decide

/-- UH.10: `SHY $4400,X`. -/
theorem test_shy_UH_10 :
    stepFrom { start with y := 0xF0, x := 0x03, params := { Params.chosen with rdyNeverLow := true } }
      [0x9C, 0x00, 0x44] (fun t => t.pc = 0x0203 ∧ t.peek 0x4403 = some 0x40 ∧ t.cycles = 5) := by
  decide

/-- UH.11: `SHY $FE00,X`. -/
theorem test_shy_UH_11 :
    stepFrom { start with y := 0xF0, x := 0x03, params := { Params.chosen with rdyNeverLow := true } }
      [0x9C, 0x00, 0xFE] (fun t => t.pc = 0x0203 ∧ t.peek 0xFE03 = some 0xF0 ∧ t.cycles = 5) := by
  decide

/-- UH.13: `TAS $4400,Y`. -/
theorem test_tas_UH_13 :
    stepFrom { start with a := 0xF7, x := 0x3F, y := 0x05, params := { Params.chosen with rdyNeverLow := true } }
      [0x9B, 0x00, 0x44] (fun t => t.sp = 0x37 ∧ t.pc = 0x0203 ∧ t.peek 0x4405 = some 0x05 ∧ t.cycles = 5) := by
  decide

/-- UH.14: `TAS $FE00,Y`. -/
theorem test_tas_UH_14 :
    stepFrom { start with a := 0xF7, x := 0x3F, y := 0x05, params := { Params.chosen with rdyNeverLow := true } }
      [0x9B, 0x00, 0xFE] (fun t => t.sp = 0x37 ∧ t.pc = 0x0203 ∧ t.peek 0xFE05 = some 0x37 ∧ t.cycles = 5) := by
  decide

/-- LAS.2: `LAS $4400,Y`. -/
theorem test_las_LAS_2 :
    stepFrom { start with sp := 0xFF, y := 0x10, mem := [(0x4410, 0x80)] }
      [0xBB, 0x00, 0x44] (fun t => t.a = 0x80 ∧ t.x = 0x80 ∧ t.sp = 0x80 ∧ t.n = true ∧ t.z = false ∧ t.pc = 0x0203 ∧
        t.cycles = 4) := by
  decide

/-- LAS.3: `LAS $4400,Y`. -/
theorem test_las_LAS_3 :
    stepFrom { start with sp := 0x0F, y := 0x10, mem := [(0x4410, 0xF0)] }
      [0xBB, 0x00, 0x44] (fun t => t.a = 0x00 ∧ t.x = 0x00 ∧ t.sp = 0x00 ∧ t.n = false ∧ t.z = true ∧ t.pc = 0x0203 ∧
        t.cycles = 4) := by
  decide

/-! ## The opcodes no vector covers: JAM, the illegal NOPs, SBC `$EB`, ANE, LAX `$AB` (rules R240 to R245, G15). -/

/-- R240: the machine is jammed, PC stays at the opcode. -/
theorem test_jam : stepFrom start [0x02] (fun t => t.jammed ∧ t.pc = 0x0200) := by decide

/-- G15: `$1C` is an illegal NOP of three bytes; nothing but PC changes. -/
theorem test_illegal_nop : stepFrom { start with a := 0x12, x := 0x34 } [0x1C, 0x00, 0x44]
    (fun t => t.pc = 0x0203 ∧ t.a = 0x12 ∧ t.x = 0x34) := by decide

/-- G15: SBC `$EB` is SBC immediate (vector SBC.14). -/
theorem test_sbc_EB : stepFrom start [0xEB, 0xFF] (fun t => t.a = 0x00 ∧ t.c = false ∧ t.z ∧ t.pc = 0x0202) := by decide

/-- R242, R243: both are refused. -/
theorem test_undetailed (s : State) :
    exec .ane s = .refused .undetailedOpcode ∧ exec .laxAB s = .refused .undetailedOpcode := ⟨rfl, rfl⟩

/-- `0C 00 D1`: the operand of an illegal NOP addresses a device cell with read side effects (R45); `$1C` with X = 5 addresses
the RAM cell after such a device, but its un-carried cell is one. -/
theorem test_illegal_nop_device :
    stepRefuses { start with params := { Params.chosen with memMap := [⟨0xD100, 0x100, .device true⟩] } } [0x0C, 0x00, 0xD1]
      (.deviceWithReadEffects 0xD100) ∧
    stepRefuses { start with x := 0x05, params := { Params.chosen with memMap := [⟨0xD100, 0x100, .device true⟩] } }
      [0x1C, 0xFD, 0xD1] (.deviceWithReadEffects 0xD102) := by decide

/-! ## The defaults of rule R5: the vectors with D = 1, and the matrix-only opcodes. -/

/-- ADC.18, SBC.17, IL5.15: with D = 1 and no DecimalMode supplied, ADC, SBC and ARR are the fault DecimalModeUnspecified. -/
theorem test_decimal_default_ADC_18_SBC_17_IL5_15 :
    stepFaults { defaults with a := 0x09, d := true, c := false } [0x69, 0x01] .decimalModeUnspecified ∧
    stepFaults { defaults with a := 0x50, d := true, c := true } [0xE9, 0x10] .decimalModeUnspecified ∧
    stepFaults { defaults with a := 0xC0, d := true, c := true } [0x6B, 0xFF] .decimalModeUnspecified := by decide

/-- IL2.11, IL2.22: so are RRA and ISC. -/
theorem test_decimal_default_IL2_11_IL2_22 :
    stepFaults { defaults with a := 0x10, d := true, c := false, mem := [(0x0044, 0x03)] } [0x67, 0x44]
      .decimalModeUnspecified ∧
    stepFaults { defaults with a := 0x05, d := true, c := true, mem := [(0x0044, 0x04)] } [0xE7, 0x44]
      .decimalModeUnspecified := by decide

/-- R245: without AdmitMatrixOnly an illegal NOP and SBC `$EB` are refused. -/
theorem test_matrix_only_default :
    stepRefuses defaults [0x1A] .undetailedOpcode ∧ stepRefuses defaults [0xEB, 0x00] .undetailedOpcode := by decide

/-! ## The end of a run: the conventions of rule R347. -/

/-- J.2: `4C 00 02` at `$0200` is a self-jump; one that jumps elsewhere is not; `F0 FE` is one when Z = 1 only. -/
theorem test_self_jump_J_2 :
    let at' (z : Bool) (bytes : List Byte) : Run := .start { start with z := z, mem := Memory.load [] 0x0200 bytes }
    Convention.selfJump.endOfRun (at' false [0x4C, 0x00, 0x02]) ∧
    Convention.selfJump.endOfRun (at' false [0x4C, 0x03, 0x02]) = false ∧
    Convention.selfJump.endOfRun (at' true [0xF0, 0xFE]) ∧ Convention.selfJump.endOfRun (at' false [0xF0, 0xFE]) = false := by
  decide

/-- An IRQ taken at a BRK byte executes no BRK and counts as no instruction; the BRK itself, masked from the IRQ, does both. -/
theorem test_brk_as_exit :
    runFrom { start with i := false, irqLine := true, mem := [(0x0200, 0x00), (0xFFFE, 0x00), (0xFFFF, 0x80)] }
      (fun r => Convention.brkAsExit.endOfRun r = false ∧ Convention.endOfRun (.stepBound 1) r = false ∧ r.state.pc = 0x8000) ∧
    runFrom { start with i := true, irqLine := true,
                         mem := [(0x0200, 0x00), (0x0201, 0x00), (0xFFFE, 0x00), (0xFFFF, 0x80)] }
      (fun r => Convention.brkAsExit.endOfRun r ∧ Convention.endOfRun (.stepBound 1) r) := by decide

/-- A run of NOP, JAM ends under the JAM convention after two instructions; without it, in the fault `jammed`. -/
theorem test_run_until_jam :
    let r : Run := .start { start with mem := [(0x0200, 0xEA), (0x0201, 0x02)] }
    endedAfter 2 (runUntil Convention.jam.endOfRun 5 r) ∧ endedAfter 1 (runUntil (Convention.stepBound 1).endOfRun 5 r) ∧
    faultedWith .jammed (runUntil Convention.brkAsExit.endOfRun 5 r) := by decide

/-! ## Interrupts and RESET: the vectors INT.3, INT.4, INT.5, INT.7. -/

/-- INT.3: an NMI is taken although I = 1. -/
theorem test_nmi_INT_3 :
    stepFrom { start with pc := 0x0345, sp := 0xFF, i := true, z := true, c := true, mem := [(0xFFFA, 0x00), (0xFFFB, 0x90)],
                          inputs := [⟨false, true, false⟩] } []
      (fun t => t.sp = 0xFC ∧ t.i ∧ t.peek 0x01FF = some 0x03 ∧ t.peek 0x01FE = some 0x45 ∧ t.peek 0x01FD = some 0x27 ∧
        t.pc = 0x9000) := by decide

/-- INT.4: the NMI comes first; the IRQ line is then masked. -/
theorem test_nmi_before_irq_INT_4 :
    stepFrom { start with pc := 0x0345, sp := 0xFF, i := false, z := true, c := true, irqLine := true, nmiPending := true,
                          mem := [(0xFFFA, 0x00), (0xFFFB, 0x90), (0xFFFE, 0x00), (0xFFFF, 0x80)] } []
      (fun t => t.sp = 0xFC ∧ t.i ∧ t.nmiPending = false ∧ t.peek 0x01FD = some 0x23 ∧ t.pc = 0x9000) := by decide

/-- INT.5: the IRQ entry wraps S and leaves D. -/
theorem test_irq_INT_5 :
    stepFrom { start with pc := 0x0345, sp := 0x01, n := true, v := true, d := true, i := false, c := true, irqLine := true,
                          mem := [(0xFFFE, 0x00), (0xFFFF, 0x80)] } []
      (fun t => t.sp = 0xFE ∧ t.i ∧ t.d ∧ t.peek 0x0101 = some 0x03 ∧ t.peek 0x0100 = some 0x45 ∧ t.peek 0x01FF = some 0xE9 ∧
        t.pc = 0x8000) := by decide

/-- INT.7: RESET writes no memory, sets I, and takes PC from its vector. -/
theorem test_reset_INT_7 :
    stepFrom { start with pc := 0x0345, resetPending := true, i := false, mem := [(0xFFFC, 0x00), (0xFFFD, 0x02)] } []
      (fun t => t.i ∧ t.pc = 0x0200 ∧ t.resetPending = false ∧ t.mem = [(0xFFFC, 0x00), (0xFFFD, 0x02)]) := by decide

/-- The table's numbering: `A9` in bits 7..0, the operand byte in bits 15..8; and the first step after reset runs it. -/
theorem test_table_word :
    decodeTableWord 16 0x80A9 = some (.ldaImm 0x80) ∧ decodeTableWord 8 0xA9 = some (.ldaImm 0x00) ∧
    decodeTableWord 24 0x4480AD = some (.ldaAbs 0x4480) ∧
    stepFrom (State.reset.withFetchWord 16 0x80A9) [] (fun t => t.a = 0x80 ∧ t.n ∧ t.pc = 0x0002) := by decide

/-! ## Witnesses: for every statement with hypotheses a concrete state and operands that meet them all. -/

/-- RAM everywhere but for a device without read side effects (`$D000`), one with (`$D100` to `$D1FF`), ROM (`$E000`) and an
unmapped hole (`$E100`); a few cells hold bytes. -/
def sample : State :=
  { State.reset with
    a := 0x7F, x := 0x05, y := 0x02, sp := 0xFF, pc := 0x0200, i := false,
    params := { Params.chosen with memMap := [⟨0xD000, 0x10, .device false⟩, ⟨0xD100, 0x100, .device true⟩,
                                              ⟨0xE000, 0x10, .rom⟩, ⟨0xE100, 0x10, .unmapped⟩] },
    mem := [(0x0000, 0x12), (0x0010, 0x34), (0x0011, 0x12), (0x00FF, 0x34), (0x0100, 0x11), (0x0101, 0x12), (0x0102, 0x13),
            (0x0200, 0x69), (0x0201, 0x50), (0x1234, 0x80), (0x1236, 0x7F), (0x3000, 0x40), (0x30FF, 0x80), (0x3100, 0x50),
            (0xE000, 0x55), (0xFFFA, 0x00), (0xFFFB, 0x90), (0xFFFC, 0x00), (0xFFFD, 0x02), (0xFFFE, 0x00), (0xFFFF, 0x80)] }

/-- `sample` with D = 1. -/
def inDecimal : State := { sample with d := true }

/-- `inDecimal` with no function supplied for DecimalMode, as the spec's default has it. -/
def unsupplied : State := { inDecimal with params := { sample.params with decimalMode := none } }

/-- Rounds of the encoder and the decoder: an instruction with a word of operand bytes. -/
theorem witness_DecodeEncodeRoundTrip : Instr.wellFormed (.adcAbs 0x1234) = true := by decide

/-- Bytes the decoder answers, with a rest. -/
theorem witness_EncodeDecodeRoundTrip : decode [0xAD, 0x34, 0x12, 0xFF] = .ok (.ldaAbs 0x1234) [0xFF] := by decide

/-- The two bytes of ADC #$50 at PC, nothing else due. -/
theorem witness_StepRunsTheDecodedInstruction :
    sample.sampleInputs.due = .instruction ∧ Instr.wellFormed (.adcImm 0x50) = true ∧
    decode [0x69, 0x50] = .ok (.adcImm 0x50) [] ∧
    holds sample.sampleInputs (sample.sampleInputs.pc + BitVec.ofNat 16 0) 0x69 ∧
    holds sample.sampleInputs (sample.sampleInputs.pc + BitVec.ofNat 16 1) 0x50 := by
  refine ⟨by decide, by decide, by decide, ⟨.inl (by decide), by decide⟩, ⟨.inl (by decide), by decide⟩⟩

/-- A NOP at the top of memory, and a branch that is not taken there. -/
theorem witness_PcAdvancesByTheLength :
    (∃ t, exec .nop { sample with pc := 0xFFFF } = .next t) ∧ movesPc Instr.nop.operation = false ∧
    (∃ t, exec (.bcs 0x05) { sample with pc := 0xFFFE } = .next t) ∧ Instr.operand (.bcs 0x05) = .relative 0x05 ∧
    branchTaken (Instr.operation (.bcs 0x05)) { sample with pc := 0xFFFE } = false :=
  ⟨⟨_, rfl⟩, rfl, ⟨_, rfl⟩, rfl, rfl⟩

/-- STX Zero Page,Y. -/
theorem witness_ZeroPageAddresses :
    Instr.operand (.stxZpY 0xFF) ∈ [.read (.memory (.zeroPageY 0xFF)), .write (.zeroPageY 0xFF),
      .modify (.memory (.zeroPageY 0xFF))] := by decide

/-- Absolute,X with X = 5: at the base `$FFFE` the sum wraps; at the base `$D1FD` the un-carried cell is a device with read side
effects, at `$30FF` it is RAM. -/
theorem witness_AbsoluteAddresses :
    (MemMode.absoluteX 0xFFFE = .absoluteX 0xFFFE ∧ (0x05 : Byte) = sample.x) ∧ sample.kindAt 0xFF03 ≠ .device true ∧
    sample.kindAt 0xD102 = .device true ∧ sample.kindAt 0x3004 ≠ .device true := by decide

/-- Indirect,X with X = 5 and the pointer at `$FF` (its high byte at `$00`); Indirect,Y with the same pointer, and with a pointer
to the page of the device with read side effects. -/
theorem witness_IndirectAddresses :
    (∃ l h s₁ s₂, sample.read (zext16 (0xFA + sample.x)) = .next (l, s₁) ∧
      s₁.read (zext16 (0xFA + sample.x + 1)) = .next (h, s₂)) ∧
    (∃ l h s₁ s₂, sample.read (zext16 0xFF) = .next (l, s₁) ∧ s₁.read (zext16 (0xFF + 1)) = .next (h, s₂)) ∧
    sample.kindAt (word 0xD1 0x00) = .device true :=
  ⟨⟨_, _, _, _, rfl, rfl⟩, ⟨_, _, _, _, rfl, rfl⟩, rfl⟩

/-- The pointer of `JMP ($30FF)`, with the cell after it and the first cell of its page; the zero-page pointer at `$FF`; low
bytes `$FF` and not. -/
theorem witness_PointerReads :
    (∃ l h h' s₁ s₂ s₃, sample.read 0x30FF = .next (l, s₁) ∧ s₁.read 0x3100 = .next (h, s₂) ∧
      s₁.read 0x3000 = .next (h', s₃)) ∧
    (0x3100 : Addr).toNat = ((0x30FF : Addr).toNat + 1) % 65536 ∧
    (0x3000 : Addr).toNat = (0x30FF : Addr).toNat / 256 * 256 + ((0x30FF : Addr).toNat + 1) % 256 ∧
    (∃ l h s₁ s₂, sample.read 0x00FF = .next (l, s₁) ∧ s₁.read 0x0000 = .next (h, s₂)) ∧
    (0x0000 : Addr).toNat = ((0xFF : Byte).toNat + 1) % 256 ∧ lo 0x30FE ≠ 0xFF ∧ lo 0x30FF = 0xFF :=
  ⟨⟨_, _, _, _, _, _, rfl, rfl, rfl⟩, by decide, by decide, ⟨_, _, _, _, rfl, rfl⟩, by decide, by decide, by decide⟩

/-- A cell of each kind, at the first and the last address of its region, holding a byte and holding none; an address in no
region. -/
theorem witness_MemoryKinds :
    sample.kindAt 0x1234 = .ram ∧ sample.peek 0x1234 = some 0x80 ∧ sample.peek 0x1235 = none ∧
    sample.kindAt 0xE000 = .rom ∧ sample.peek 0xE000 = some 0x55 ∧ sample.kindAt 0xE00F = .rom ∧ sample.peek 0xE00F = none ∧
    sample.kindAt 0xE100 = .unmapped ∧ sample.kindAt 0xE10F = .unmapped ∧ sample.kindAt 0xD000 = .device false ∧
    sample.kindAt 0xD00F = .device false ∧ sample.kindAt 0xD010 = .ram ∧
    (∀ r ∈ sample.params.memMap, regionHolds r (0xFFFF : Addr).toNat = false) := by decide

/-- Writes to RAM, to ROM and to an unmapped cell answer. -/
theorem witness_WriteThenRead :
    (∃ t, sample.write 0xFFFF 0x01 = .next t) ∧ sample.kindAt 0xFFFF = .ram ∧
    (∃ t, sample.write 0xE000 0x01 = .next t) ∧ (∃ t, sample.write 0xE100 0x01 = .next t) :=
  ⟨⟨_, rfl⟩, rfl, ⟨_, rfl⟩, ⟨_, rfl⟩⟩

/-- The first and the last cell of the device whose reads have side effects. -/
theorem witness_DeviceReadEffectsAreRefused :
    sample.kindAt 0xD100 = .device true ∧ sample.kindAt 0xD1FF = .device true := by decide

/-- The stack in RAM with S = `$00` and with S = `$FF`, where the pull reads `$0100`. -/
theorem witness_StackPushPull :
    State.kindAt { sample with sp := 0x00 } (stackAddr 0x00) = .ram ∧ sample.kindAt (stackAddr sample.sp) ≠ .device true ∧
    sample.sp = 0xFF ∧ (0x00 : Byte).toNat = (sample.sp.toNat + 1) % 256 ∧
    (∃ b s₁, sample.read (stackAddr 0x00) = .next (b, s₁)) ∧ (∃ b t, sample.pull = .next (b, t)) :=
  ⟨rfl, by decide, rfl, rfl, ⟨_, _, rfl⟩, ⟨_, _, rfl⟩⟩

/-- An address that is found by reading a pointer, and a byte read through it. -/
theorem witness_ReadsChangeOnlyTheDrawCount :
    (∃ l t, sample.locate (.indirectY 0x10) = .next (l, t)) ∧
    (∃ b t, sample.readSource (.memory (.indirectY 0x10)) = .next (b, t)) :=
  ⟨⟨_, _, rfl⟩, ⟨_, _, rfl⟩⟩

/-- A load. -/
theorem witness_NoStoreLeavesMemory :
    (∀ m : MemMode, Instr.operand (.ldaAbs 0x1234) ≠ .write m ∧ Instr.operand (.ldaAbs 0x1234) ≠ .modify (.memory m)) ∧
    Instr.operation (.ldaAbs 0x1234) ∉ [.pha, .php, .jsr, .brk] ∧ (∃ t, exec (.ldaAbs 0x1234) sample = .next t) :=
  ⟨fun _ => ⟨nofun, nofun⟩, by decide, ⟨_, rfl⟩⟩

/-- A store, a read-modify-write, a push, JSR and BRK. -/
theorem witness_StoresChangeOnlyTheirByte :
    (∃ t l s₁, exec (.staIndY 0x10) sample = .next t ∧ Instr.operand (.staIndY 0x10) = .write (.indirectY 0x10) ∧
      sample.locate (.indirectY 0x10) = .next (l, s₁)) ∧
    (∃ t l s₁, exec (.incAbs 0x1234) sample = .next t ∧ Instr.operand (.incAbs 0x1234) = .modify (.memory (.absolute 0x1234)) ∧
      sample.locate (.absolute 0x1234) = .next (l, s₁)) ∧
    (∃ t, exec .php sample = .next t) ∧ Instr.php.operation ∈ [.pha, .php] ∧
    (∃ t, exec (.jsr 0x1234) { sample with sp := 0x00 } = .next t) ∧ (∃ t, exec .brk { sample with sp := 0x01 } = .next t) :=
  ⟨⟨_, _, _, rfl, rfl, rfl⟩, ⟨_, _, _, rfl, rfl, rfl⟩, ⟨_, rfl⟩, by decide, ⟨_, rfl⟩, ⟨_, rfl⟩⟩

/-- 99 and 00. -/
theorem witness_NmosDecimalArithmetic : validBcd 0x99 ∧ validBcd 0x00 := by
  unfold validBcd
  decide

/-- ADC, SBC and SBC `$EB` with readable operands, for D = 0, for D = 1 with a function supplied, and for D = 1 with none. -/
theorem witness_AdcAndSbcResult :
    (∃ m s₁, sample.readSource (.memory (.absolute 0x1234)) = .next (m, s₁)) ∧ sample.d = false ∧
    (∃ m s₁, inDecimal.readSource (.memory (.absolute 0x1234)) = .next (m, s₁)) ∧ inDecimal.d = true ∧
    inDecimal.params.decimalMode = some .uninterpreted ∧
    (∃ m s₁, unsupplied.readSource (.memory (.absolute 0x1234)) = .next (m, s₁)) ∧ unsupplied.d = true ∧
    unsupplied.params.decimalMode = none ∧ (∃ m s₁, sample.readSource (.immediate 0xFF) = .next (m, s₁)) ∧
    Instr.form (.adcAbs 0x1234) = ⟨.adc, .read (.memory (.absolute 0x1234))⟩ ∧
    Instr.form (.sbcAbs 0x1234) = ⟨.sbc, .read (.memory (.absolute 0x1234))⟩ ∧
    Instr.form (.sbcEB 0xFF) = ⟨.sbcEB, .read (.immediate 0xFF)⟩ ∧ sample.params.admitMatrixOnly = true :=
  ⟨⟨_, _, rfl⟩, rfl, ⟨_, _, rfl⟩, rfl, rfl, ⟨_, _, rfl⟩, rfl, rfl, ⟨_, _, rfl⟩, rfl, rfl, rfl, rfl⟩

/-- AND, ORA and EOR through a pointer that wraps in the zero page. -/
theorem witness_LogicResult :
    (∃ m s₁, sample.readSource (.memory (.indirectY 0xFF)) = .next (m, s₁)) ∧
    Instr.form (.andIndY 0xFF) = ⟨.and, .read (.memory (.indirectY 0xFF))⟩ ∧
    Instr.form (.oraIndY 0xFF) = ⟨.ora, .read (.memory (.indirectY 0xFF))⟩ ∧
    Instr.form (.eorIndY 0xFF) = ⟨.eor, .read (.memory (.indirectY 0xFF))⟩ := ⟨⟨_, _, rfl⟩, rfl, rfl, rfl⟩

/-- The loads from `$1234`, a byte with bit 7 set, and from ROM. -/
theorem witness_LoadResult :
    (∃ m s₁, sample.readSource (.memory (.absolute 0x1234)) = .next (m, s₁)) ∧
    (∃ m s₁, sample.readSource (.memory (.absolute 0xE000)) = .next (m, s₁)) ∧
    Instr.form (.ldaAbs 0x1234) = ⟨.lda, .read (.memory (.absolute 0x1234))⟩ ∧
    Instr.form (.ldxAbs 0x1234) = ⟨.ldx, .read (.memory (.absolute 0x1234))⟩ ∧
    Instr.form (.ldyAbs 0x1234) = ⟨.ldy, .read (.memory (.absolute 0x1234))⟩ ∧
    Instr.form (.laxAbs 0x1234) = ⟨.lax, .read (.memory (.absolute 0x1234))⟩ :=
  ⟨⟨_, _, rfl⟩, ⟨_, _, rfl⟩, rfl, rfl, rfl, rfl⟩

/-- The compares and BIT with `$1234`, and with a device cell. -/
theorem witness_CompareAndBitResult :
    (∃ m s₁, sample.readSource (.memory (.absolute 0x1234)) = .next (m, s₁)) ∧
    (∃ m s₁, sample.readSource (.memory (.absolute 0xD000)) = .next (m, s₁)) ∧
    Instr.form (.cmpAbs 0x1234) = ⟨.cmp, .read (.memory (.absolute 0x1234))⟩ ∧
    Instr.form (.cpxAbs 0x1234) = ⟨.cpx, .read (.memory (.absolute 0x1234))⟩ ∧
    Instr.form (.cpyAbs 0x1234) = ⟨.cpy, .read (.memory (.absolute 0x1234))⟩ ∧
    Instr.form (.bitAbs 0xD000) = ⟨.bit, .read (.memory (.absolute 0xD000))⟩ :=
  ⟨⟨_, _, rfl⟩, ⟨_, _, rfl⟩, rfl, rfl, rfl, rfl⟩

/-- The stores to a RAM, a ROM and a device cell. -/
theorem witness_StoreResult :
    (∃ l s₁, sample.locate (.absolute 0x1234) = .next (l, s₁) ∧ sample.kindAt l.ea ≠ .device true) ∧
    (∃ l s₁, sample.locate (.absolute 0xE000) = .next (l, s₁) ∧ sample.kindAt l.ea ≠ .device true) ∧
    (∃ l s₁, sample.locate (.absolute 0xD000) = .next (l, s₁) ∧ sample.kindAt l.ea ≠ .device true) ∧
    Instr.form (.staAbs 0x1234) = ⟨.sta, .write (.absolute 0x1234)⟩ ∧
    Instr.form (.stxAbs 0xE000) = ⟨.stx, .write (.absolute 0xE000)⟩ ∧
    Instr.form (.styAbs 0xD000) = ⟨.sty, .write (.absolute 0xD000)⟩ ∧
    Instr.form (.saxAbs 0x1234) = ⟨.sax, .write (.absolute 0x1234)⟩ :=
  ⟨⟨_, _, rfl, by decide⟩, ⟨_, _, rfl, by decide⟩, ⟨_, _, rfl, by decide⟩, rfl, rfl, rfl, rfl⟩

/-- The read-modify-writes of a RAM byte, and of a ROM byte, whose write is ignored. -/
theorem witness_ModifyResult :
    (∃ l s₁ b s₂, sample.locate (.absolute 0x1234) = .next (l, s₁) ∧ s₁.read l.ea = .next (b, s₂)) ∧
    (∃ l s₁ b s₂, sample.locate (.absolute 0xE000) = .next (l, s₁) ∧ s₁.read l.ea = .next (b, s₂)) ∧
    Instr.form (.aslAbs 0x1234) = ⟨.asl, .modify (.memory (.absolute 0x1234))⟩ ∧
    Instr.form (.lsrAbs 0x1234) = ⟨.lsr, .modify (.memory (.absolute 0x1234))⟩ ∧
    Instr.form (.rolAbs 0x1234) = ⟨.rol, .modify (.memory (.absolute 0x1234))⟩ ∧
    Instr.form (.rorAbs 0x1234) = ⟨.ror, .modify (.memory (.absolute 0x1234))⟩ ∧
    Instr.form (.incAbs 0xE000) = ⟨.inc, .modify (.memory (.absolute 0xE000))⟩ ∧
    Instr.form (.decAbs 0x1234) = ⟨.dec, .modify (.memory (.absolute 0x1234))⟩ :=
  ⟨⟨_, _, _, _, rfl, rfl⟩, ⟨_, _, _, _, rfl, rfl⟩, rfl, rfl, rfl, rfl, rfl, rfl⟩

/-- SLO, RLA and SRE through a zero-page pointer. -/
theorem witness_ShiftThenLogicResult :
    (∃ l s₁ b s₂, sample.locate (.indirectY 0x10) = .next (l, s₁) ∧ s₁.read l.ea = .next (b, s₂)) ∧
    Instr.form (.sloIndY 0x10) = ⟨.slo, .modify (.memory (.indirectY 0x10))⟩ ∧
    Instr.form (.rlaIndY 0x10) = ⟨.rla, .modify (.memory (.indirectY 0x10))⟩ ∧
    Instr.form (.sreIndY 0x10) = ⟨.sre, .modify (.memory (.indirectY 0x10))⟩ :=
  ⟨⟨_, _, _, _, rfl, rfl⟩, rfl, rfl, rfl⟩

/-- RRA, ISC and DCP, for D = 0, for D = 1 with a function supplied, and for D = 1 with none. -/
theorem witness_RraIscDcpResult :
    (∃ l s₁ b s₂, sample.locate (.indirectY 0x10) = .next (l, s₁) ∧ s₁.read l.ea = .next (b, s₂)) ∧ sample.d = false ∧
    (∃ l s₁ b s₂, inDecimal.locate (.indirectY 0x10) = .next (l, s₁) ∧ s₁.read l.ea = .next (b, s₂)) ∧ inDecimal.d = true ∧
    inDecimal.params.decimalMode = some .uninterpreted ∧
    (∃ l s₁ b s₂, unsupplied.locate (.indirectY 0x10) = .next (l, s₁) ∧ s₁.read l.ea = .next (b, s₂)) ∧
    unsupplied.d = true ∧ unsupplied.params.decimalMode = none ∧
    Instr.form (.rraIndY 0x10) = ⟨.rra, .modify (.memory (.indirectY 0x10))⟩ ∧
    Instr.form (.iscIndY 0x10) = ⟨.isc, .modify (.memory (.indirectY 0x10))⟩ ∧
    Instr.form (.dcpIndY 0x10) = ⟨.dcp, .modify (.memory (.indirectY 0x10))⟩ :=
  ⟨⟨_, _, _, _, rfl, rfl⟩, rfl, ⟨_, _, _, _, rfl, rfl⟩, rfl, rfl, ⟨_, _, _, _, rfl, rfl⟩, rfl, rfl, rfl, rfl, rfl⟩

/-- D = 0; D = 1 with a function supplied, and with none; each fixed choice of ArrCarry. -/
theorem witness_ArrResult :
    sample.d = false ∧ inDecimal.d = true ∧ inDecimal.params.decimalMode = some .uninterpreted ∧ unsupplied.d = true ∧
    unsupplied.params.decimalMode = none ∧ ({ Params.chosen with arrCarry := .bit6 } : Params).arrCarry = .bit6 ∧
    ({ Params.chosen with arrCarry := .bit7 } : Params).arrCarry = .bit7 := ⟨rfl, rfl, rfl, rfl, rfl, rfl, rfl⟩

/-- SHA, SHX, SHY and TAS with no page crossed, once in the page `$FE`; RDY_never_low set. -/
theorem witness_UnstableStoreResult :
    (∃ l s₁, sample.locate (.absoluteY 0xFE00) = .next (l, s₁) ∧ l.crossed = false ∧ sample.kindAt l.ea ≠ .device true ∧
      hi l.ea = 0xFE) ∧
    (∃ l s₁, sample.locate (.absoluteX 0x4400) = .next (l, s₁) ∧ l.crossed = false ∧ sample.kindAt l.ea ≠ .device true) ∧
    ({ Params.chosen with rdyNeverLow := true } : Params).rdyNeverLow = true ∧
    Instr.form (.shaAbsY 0xFE00) = ⟨.sha, .write (.absoluteY 0xFE00)⟩ ∧
    Instr.form (.shx 0xFE00) = ⟨.shx, .write (.absoluteY 0xFE00)⟩ ∧
    Instr.form (.shy 0x4400) = ⟨.shy, .write (.absoluteX 0x4400)⟩ ∧
    Instr.form (.tas 0xFE00) = ⟨.tas, .write (.absoluteY 0xFE00)⟩ :=
  ⟨⟨_, _, rfl, rfl, by decide, rfl⟩, ⟨_, _, rfl, rfl, by decide⟩, rfl, rfl, rfl, rfl, rfl⟩

/-- LAS `$1232,Y` with Y = 2. -/
theorem witness_LasResult :
    ∃ l s₁ b s₂, sample.locate (.absoluteY 0x1232) = .next (l, s₁) ∧ l.crossed = false ∧ s₁.read l.ea = .next (b, s₂) :=
  ⟨_, _, _, _, rfl, rfl, rfl⟩

/-- `$44FE,Y` with Y = 2: the first address of the next page. -/
theorem witness_PageCrossingIsRefused :
    (∃ l s₁, sample.locate (.absoluteY 0x44FE) = .next (l, s₁) ∧ l.crossed = true) ∧
    Instr.operation (.shx 0x44FE) ∈ [.sha, .shx, .shy, .tas, .las] ∧ Instr.operand (.shx 0x44FE) = .write (.absoluteY 0x44FE) ∧
    Instr.operation (.las 0x44FE) ∈ [.sha, .shx, .shy, .tas, .las] ∧
    Instr.operand (.las 0x44FE) = .read (.memory (.absoluteY 0x44FE)) :=
  ⟨⟨_, _, rfl, rfl⟩, by decide, rfl, by decide, rfl⟩

/-- A stack cell that can be written, with S = `$FF` and with S = `$00`. -/
theorem witness_PushInstructions : stackWritable sample 1 ∧ stackWritable { sample with sp := 0x00 } 1 := by
  unfold stackWritable
  decide

/-- A stack byte that can be read, with S = `$FF`. -/
theorem witness_PullInstructions :
    sample.sp = 0xFF ∧ ∃ b s₁, sample.read (stackAddr (sample.sp + 1)) = .next (b, s₁) := ⟨rfl, _, _, rfl⟩

/-- The pointer of `JMP ($30FF)`, and two stack cells that can be written with S = `$00`. -/
theorem witness_JumpResult :
    (∃ l h s₁ s₂, sample.read 0x30FF = .next (l, s₁) ∧ s₁.read (word (hi 0x30FF) (lo 0x30FF + 1)) = .next (h, s₂)) ∧
    stackWritable { sample with sp := 0x00 } 2 := by
  refine ⟨⟨_, _, _, _, rfl, rfl⟩, ?_⟩
  unfold stackWritable
  decide

/-- Three stack bytes that can be read, with S = `$FF`. -/
theorem witness_ReturnResult :
    ∃ p l h s₁ s₂ s₃, sample.read (stackAddr (sample.sp + 1)) = .next (p, s₁) ∧
      s₁.read (stackAddr (sample.sp + 2)) = .next (l, s₂) ∧ s₂.read (stackAddr (sample.sp + 3)) = .next (h, s₃) :=
  ⟨_, _, _, _, _, _, rfl, rfl, rfl⟩

/-- Three stack cells that can be written with S = `$01`, and the vector readable after the pushes. -/
theorem witness_BrkTakesTheTrap :
    let s : State := { sample with sp := 0x01 }
    let t := pushed (pushed (pushed s (hi (s.pc + 2))) (lo (s.pc + 2))) (pByte true s)
    stackWritable s 3 ∧ ∃ l h s₁ s₂, t.read 0xFFFE = .next (l, s₁) ∧ s₁.read 0xFFFF = .next (h, s₂) := by
  refine ⟨?_, _, _, _, _, rfl, rfl⟩
  unfold stackWritable
  decide

/-- Stack cells in RAM with S = `$00`. -/
theorem witness_JsrThenRtsReturns :
    let s : State := { sample with sp := 0x00 }
    s.kindAt (stackAddr s.sp) = .ram ∧ s.kindAt (stackAddr (s.sp - 1)) = .ram := ⟨rfl, rfl⟩

/-- Stack cells in RAM with S = `$01`, and a BRK that answers. -/
theorem witness_BrkThenRtiReturns :
    (∀ k < 3, State.kindAt { sample with sp := 0x01 } (stackAddr (0x01 - BitVec.ofNat 8 k)) = .ram) ∧
    ∃ t, exec .brk { sample with sp := 0x01 } = .next t := ⟨by decide, _, rfl⟩

/-- Each event due: RESET over all, stuck over NMI, NMI over IRQ, IRQ, and an instruction with the line asserted but masked. -/
theorem witness_EventPriority :
    (let b := State.sampleInputs { sample with inputs := [⟨true, true, true⟩], jammed := true }
     b.resetPending = true) ∧
    (let b := State.sampleInputs { sample with inputs := [⟨true, true, false⟩], jammed := true }
     b.resetPending = false ∧ b.jammed = true) ∧
    (let b := State.sampleInputs { sample with inputs := [⟨true, true, false⟩] }
     b.resetPending = false ∧ b.jammed = false ∧ b.nmiPending = true) ∧
    (let b := State.sampleInputs { sample with inputs := [⟨true, false, false⟩] }
     b.resetPending = false ∧ b.jammed = false ∧ b.nmiPending = false ∧ b.irqLine = true ∧ b.i = false) ∧
    (let b := State.sampleInputs { sample with inputs := [⟨true, false, false⟩], i := true }
     b.resetPending = false ∧ b.jammed = false ∧ b.nmiPending = false ∧ (b.irqLine = false ∨ b.i = true)) := by decide

/-- An NMI with I = 1, and an IRQ with I = 0, each with the stack writable and the vector readable after the pushes. -/
theorem witness_InterruptEntry :
    (let b := State.sampleInputs { sample with sp := 0x01, i := true, inputs := [⟨false, true, false⟩] }
     let t := pushed (pushed (pushed b (hi b.pc)) (lo b.pc)) (pByte false b)
     b.resetPending = false ∧ b.jammed = false ∧ stackWritable b 3 ∧ b.nmiPending = true ∧
     ∃ l h s₁ s₂, t.read 0xFFFA = .next (l, s₁) ∧ s₁.read 0xFFFB = .next (h, s₂)) ∧
    (let b := State.sampleInputs { sample with inputs := [⟨true, false, false⟩] }
     let t := pushed (pushed (pushed b (hi b.pc)) (lo b.pc)) (pByte false b)
     b.resetPending = false ∧ b.jammed = false ∧ stackWritable b 3 ∧ b.nmiPending = false ∧ b.irqLine = true ∧ b.i = false ∧
     ∃ l h s₁ s₂, t.read 0xFFFE = .next (l, s₁) ∧ s₁.read 0xFFFF = .next (h, s₂)) := by
  unfold stackWritable
  exact ⟨⟨rfl, rfl, by decide, rfl, _, _, _, _, rfl, rfl⟩, ⟨rfl, rfl, by decide, rfl, rfl, rfl, _, _, _, _, rfl, rfl⟩⟩

/-- RESET asserted, with both vector bytes in RAM cells. -/
theorem witness_ResetEntry :
    let b := State.sampleInputs { sample with jammed := true, inputs := [⟨false, false, true⟩] }
    b.resetPending = true ∧ holds b 0xFFFC 0x00 ∧ holds b 0xFFFD 0x02 :=
  ⟨rfl, ⟨.inl rfl, rfl⟩, ⟨.inl rfl, rfl⟩⟩

/-- A JAM; a jammed state without a RESET; a RESET that answers. -/
theorem witness_JamSticksUntilReset :
    Instr.jamF2.operation = .jam ∧
    ({ sample with jammed := true } : State).jammed = true ∧
    (State.sampleInputs { sample with jammed := true }).resetPending = false ∧
    (State.sampleInputs { sample with jammed := true, resetPending := true }).resetPending = true ∧
    ∃ t, step { sample with jammed := true, resetPending := true } = .next t := ⟨rfl, rfl, rfl, rfl, _, rfl⟩

/-- An illegal NOP without an operand; with one at a RAM address, at a device with read side effects, and at an address whose
un-carried cell is one; the parameter set, and as the spec's default has it. -/
theorem witness_MatrixOnlyTreatment :
    Instr.operation .nop1A = .illegalNop ∧ (∀ m : MemMode, Instr.operand .nop1A ≠ .read (.memory m)) ∧
    Instr.operation (.nopFC 0x4400) = .illegalNop ∧ Instr.operand (.nopFC 0x4400) = .read (.memory (.absoluteX 0x4400)) ∧
    (∃ l s₁, sample.locate (.absoluteX 0x4400) = .next (l, s₁) ∧ sample.kindAt l.ea ≠ .device true) ∧
    Instr.operand (.nop0C 0xD100) = .read (.memory (.absolute 0xD100)) ∧
    (∃ l s₁, sample.locate (.absolute 0xD100) = .next (l, s₁) ∧ sample.kindAt l.ea = .device true) ∧
    (∃ why, sample.locate (.absoluteX 0xD1FD) = .refused why) ∧ sample.params.admitMatrixOnly = true ∧
    Params.specDefaults.admitMatrixOnly = false :=
  ⟨rfl, nofun, rfl, rfl, ⟨_, _, rfl, by decide⟩, rfl, ⟨_, _, rfl, rfl⟩, ⟨_, rfl⟩, rfl, rfl⟩

/-- An instruction that writes none of A, X, Y, S and answers. -/
theorem witness_RegistersWrittenOnlyByTheirInstructions :
    (∃ t, exec (.incAbs 0x1234) sample = .next t) ∧ writesA (Instr.form (.incAbs 0x1234)) = false ∧
    writesX (Instr.operation (.incAbs 0x1234)) = false ∧ writesY (Instr.operation (.incAbs 0x1234)) = false ∧
    writesS (Instr.operation (.incAbs 0x1234)) = false := ⟨⟨_, rfl⟩, by decide, by decide, by decide, by decide⟩

/-- A store, which writes no flag and answers. -/
theorem witness_FlagsWrittenOnlyByTheirInstructions :
    (∃ t, exec (.staAbs 0x1234) sample = .next t) ∧ writesC (Instr.operation (.staAbs 0x1234)) = false ∧
    writesV (Instr.operation (.staAbs 0x1234)) = false ∧ writesD (Instr.operation (.staAbs 0x1234)) = false ∧
    writesI (Instr.operation (.staAbs 0x1234)) = false ∧ keepsNZ (Instr.operation (.staAbs 0x1234)) = true ∧
    Instr.operation (.staAbs 0x1234) ≠ .jam :=
  ⟨⟨_, rfl⟩, by decide, by decide, by decide, by decide, by decide, by decide⟩

/-- Two instructions that do not read D, the second of which writes it. -/
theorem witness_DecimalFlagIsIgnoredElsewhere :
    readsD (Instr.operation (.cmpAbs 0x1234)) = false ∧ readsD Instr.plp.operation = false ∧
    writesD Instr.plp.operation = true := by decide

/-- A step that answers, and addresses that are not RAM. -/
theorem witness_RomAndParametersNeverChange :
    (∃ t, step sample = .next t) ∧ sample.kindAt 0xE000 ≠ .ram ∧ sample.kindAt 0xD000 ≠ .ram :=
  ⟨⟨_, rfl⟩, by decide, by decide⟩

/-- A state with the invariant, with bytes in memory and in the log of device writes, whose step answers. -/
theorem witness_EveryStepKeepsTheInvariant :
    State.Inv { sample with deviceLog := [(0xD00F, 0x01)] } = true ∧
    ∃ t, step { sample with deviceLog := [(0xD00F, 0x01)] } = .next t := ⟨by decide, _, rfl⟩

/-- Memory that lists `n` cells from `k` on, each with the byte `$00`. -/
def zeros : Nat → Nat → Memory
  | _, 0 => []
  | k, n + 1 => (k, 0x00) :: zeros (k + 1) n

/-- Each cell of `zeros` holds `$00`. -/
theorem zeros_get (n : Nat) : ∀ k a : Nat, k ≤ a → a < k + n → Memory.get? (zeros k n) a = some 0x00 := by
  induction n with
  | zero => intro k a h₁ h₂; omega
  | succ n ih =>
    intro k a h₁ h₂
    by_cases h : a = k
    · simp [zeros, Memory.get?, h]
    · have h₃ : ¬ a < k := by omega
      simp [zeros, Memory.get?, h, h₃, ih (k + 1) a (by omega) (by omega)]

/-- RAM everywhere, every byte `$00`. -/
def allRam : State := { State.reset with mem := zeros 0 65536 }

/-- Every cell of `allRam` is RAM and holds a byte, with D = 0 and with D = 1; the parameters are set; ADC is no excepted
instruction, and SHX finds its address without a page crossing there. -/
theorem witness_RamMachineMakesProgress :
    (∀ a : Addr, allRam.kindAt a = .ram ∧ ∃ b : Byte, allRam.peek a = some b) ∧ allRam.params.admitMatrixOnly = true ∧
    (∀ a : Addr, State.kindAt { allRam with d := true } a = .ram ∧ ∃ b : Byte, State.peek { allRam with d := true } a = some b) ∧
    ({ allRam with d := true } : State).params.decimalMode ≠ none ∧
    Instr.operation (.adcAbs 0x1234) ∉ [.ane, .laxAB] ∧ Instr.operation (.adcAbs 0x1234) ∉ [.sha, .shx, .shy, .tas, .las] ∧
    Instr.operation (.shx 0x44FF) ∉ [.ane, .laxAB] ∧
    (∀ (m : MemMode) (l : Located) (s₁ : State), Instr.operand (.shx 0x44FF) = .write m ∨
        Instr.operand (.shx 0x44FF) = .read (.memory m) →
      allRam.locate m = .next (l, s₁) → l.crossed = false) := by
  refine ⟨fun a => ⟨rfl, 0x00, zeros_get 65536 0 a.toNat (by omega) (by omega)⟩, rfl,
    fun a => ⟨rfl, 0x00, zeros_get 65536 0 a.toNat (by omega) (by omega)⟩, nofun, by decide, by decide, by decide, ?_⟩
  intro m l s₁ hm hl
  rcases hm with hm | hm
  · cases hm
    cases hl
    rfl
  · cases hm

/-- An input to come, and none. -/
theorem witness_InputsAreSampledAtTheBoundary :
    sample.inputs = [] ∧ ({ sample with inputs := [⟨true, true, true⟩] } : State).inputs = ⟨true, true, true⟩ :: [] :=
  ⟨rfl, rfl⟩

end Sys2Proof.Tests
end

