-- ==== Sys2Proof/Proofs/StatusByte.lean ====
section
/-!
PROOFS. The status byte of rule R16: its value and its bits as pushed, what SetP reads of a byte, and the round trip (O23).
-/

namespace Sys2Proof.Machine

section
variable (b : Bool) (s : State)

/-- The sum of rule R16 fits a byte, so `pByte` loses nothing of it. -/
theorem pByte_toNat :
    (pByte b s).toNat = s.n.toNat * 128 + s.v.toNat * 64 + 32 + b.toNat * 16 + s.d.toNat * 8 + s.i.toNat * 4 +
      s.z.toNat * 2 + s.c.toNat := by
  have hn := s.n.toNat_lt
  have hv := s.v.toNat_lt
  have hb := b.toNat_lt
  have hd := s.d.toNat_lt
  have hi := s.i.toNat_lt
  have hz := s.z.toNat_lt
  have hc := s.c.toNat_lt
  simp only [pByte, flagBit, BitVec.toNat_ofNat]
  omega

/-- The table of rule R16, from bit 0 up. -/
theorem pByte_eq_ofBoolListLE :
    pByte b s = BitVec.ofBoolListLE [s.c, s.z, s.i, s.d, b, true, s.v, s.n] := by
  apply BitVec.eq_of_toNat_eq
  rw [pByte_toNat]
  simp only [BitVec.ofBoolListLE, BitVec.toNat_concat, Bool.toNat_true, List.length_nil, BitVec.toNat_zero]
  omega

/-- Bit `k` of the pushed byte is entry `k` of the table of rule R16. -/
theorem bit_pByte (k : Nat) :
    bit (pByte b s) k = [s.c, s.z, s.i, s.d, b, true, s.v, s.n].getD k false := by
  rw [pByte_eq_ofBoolListLE]
  exact BitVec.getLsbD_ofBoolListLE

@[simp] theorem bit_pByte_n : bit (pByte b s) 7 = s.n := bit_pByte b s 7
@[simp] theorem bit_pByte_v : bit (pByte b s) 6 = s.v := bit_pByte b s 6
@[simp] theorem bit_pByte_unused : bit (pByte b s) 5 = true := bit_pByte b s 5
@[simp] theorem bit_pByte_b : bit (pByte b s) 4 = b := bit_pByte b s 4
@[simp] theorem bit_pByte_d : bit (pByte b s) 3 = s.d := bit_pByte b s 3
@[simp] theorem bit_pByte_i : bit (pByte b s) 2 = s.i := bit_pByte b s 2
@[simp] theorem bit_pByte_z : bit (pByte b s) 1 = s.z := bit_pByte b s 1
@[simp] theorem bit_pByte_c : bit (pByte b s) 0 = s.c := bit_pByte b s 0

/-- Pushing the status byte and loading it back is the identity, whichever B was pushed. -/
@[simp] theorem State.setP_pByte : s.setP (pByte b s) = s := by
  simp only [State.setP, bit_pByte_n, bit_pByte_v, bit_pByte_d, bit_pByte_i, bit_pByte_z, bit_pByte_c]

/-- SetP reads only the six bits that hold a flag. -/
theorem State.setP_congr {p q : Byte} (h : ∀ k ∈ [7, 6, 3, 2, 1, 0], bit p k = bit q k) : s.setP p = s.setP q := by
  simp only [List.forall_mem_cons] at h
  obtain ⟨hn, hv, hd, hi, hz, hc, -⟩ := h
  simp only [State.setP, hn, hv, hd, hi, hz, hc]

theorem bit_xor (v m : Byte) (k : Nat) : bit (v ^^^ m) k = (bit v k ^^ bit m k) := BitVec.getLsbD_xor

/-- Flipping bits that hold no flag does not show in SetP. -/
theorem State.setP_xor (v : Byte) {m : Byte} (hm : ∀ k ∈ [7, 6, 3, 2, 1, 0], bit m k = false) :
    s.setP (v ^^^ m) = s.setP v :=
  s.setP_congr fun k hk => by rw [bit_xor, hm k hk, Bool.xor_false]

end

/-- Settles O23: the value from `pByte_toNat`, the bits SetP passes over from `State.setP_xor`, the round trip from the bits of
`pByte`. -/
theorem statusByteLayout : Obligations.StatusByteLayout := by
  intro s b v
  have hvalue := pByte_toNat b s
  have hboth : s.setP (v ^^^ 0x30) = s.setP v := s.setP_xor v (by decide)
  have hunused : s.setP (v ^^^ 0x20) = s.setP v := s.setP_xor v (by decide)
  have hb : s.setP (v ^^^ 0x10) = s.setP v := s.setP_xor v (by decide)
  exact ⟨hvalue, rfl, hboth, hunused, hb, s.setP_pByte b⟩

end Sys2Proof.Machine
end

