-- ==== Sys2Proof/Proofs/Pointers.lean ====
section
/-!
PROOFS. The pointer reads of rule R38 and the two indirect data modes of rules R63 and R64 that stand on them: which two cells are
read, and what becomes of the word (O10, O11).
-/

namespace Sys2Proof.Machine

/-! ## The second cell of a pointer -/

theorem toNat_byte_succ (z : Byte) : (z + 1).toNat = (z.toNat + 1) % 256 := BitVec.toNat_add z 1

theorem toNat_addr_succ (a : Addr) : (a + 1).toNat = (a.toNat + 1) % 65536 := BitVec.toNat_add a 1

/-- The next cell of the same page. -/
theorem toNat_word_hi_lo_succ (a : Addr) :
    (word (hi a) (lo a + 1)).toNat = a.toNat / 256 * 256 + (a.toNat + 1) % 256 := by
  rw [word_toNat, toNat_byte_succ, hi_toNat, lo_toNat]
  omega

/-- Below the last cell of a page the next cell of the page is the next address. -/
theorem word_hi_lo_succ {a : Addr} (ha : lo a ≠ 0xFF) : word (hi a) (lo a + 1) = a + 1 := by
  have hlo : a.toNat % 256 ≠ 255 := fun h => ha (BitVec.eq_of_toNat_eq ((lo_toNat a).trans h))
  have hlt := a.isLt
  apply BitVec.eq_of_toNat_eq
  rw [toNat_word_hi_lo_succ, toNat_addr_succ]
  omega

/-! ## The pointer reads -/

section
variable {s s₁ s₂ : State} {l h : Byte}

/-- Two reads that answer, low byte first, make the word. -/
theorem State.readPair_eq {low high : Addr} (h₁ : s.read low = .next (l, s₁)) (h₂ : s₁.read high = .next (h, s₂)) :
    s.readPair low high = .next (word h l, s₂) := by
  simp only [State.readPair, h₁, h₂, andThen_next]

theorem State.read16_eq {a : Addr} (h₁ : s.read a = .next (l, s₁)) (h₂ : s₁.read (a + 1) = .next (h, s₂)) :
    s.read16 a = .next (word h l, s₂) :=
  State.readPair_eq h₁ h₂

theorem State.read16Bug_eq {a : Addr} (h₁ : s.read a = .next (l, s₁))
    (h₂ : s₁.read (word (hi a) (lo a + 1)) = .next (h, s₂)) : s.read16Bug a = .next (word h l, s₂) :=
  State.readPair_eq h₁ h₂

theorem State.read16ZP_eq {z : Byte} (h₁ : s.read (zext16 z) = .next (l, s₁))
    (h₂ : s₁.read (zext16 (z + 1)) = .next (h, s₂)) : s.read16ZP z = .next (word h l, s₂) :=
  State.readPair_eq h₁ h₂

end

/-- The page-wrap bug does not show below the last cell of a page. -/
theorem State.read16Bug_eq_read16 (s : State) {a : Addr} (ha : lo a ≠ 0xFF) : s.read16Bug a = s.read16 a := by
  rw [State.read16Bug, State.read16, word_hi_lo_succ ha]

/-- In the last cell of a page it does: the high byte comes from the first cell of that page. -/
theorem State.read16Bug_at_page_end (s : State) {a : Addr} (ha : lo a = 0xFF) :
    s.read16Bug a = s.readPair a (word (hi a) 0x00) := by
  have hwrap : (0xFF : Byte) + 1 = 0x00 := by decide
  rw [State.read16Bug, ha, hwrap]

/-- Settles O11: the addresses of the statement are those the pointer reads name, by their numbers. -/
theorem pointerReads : Obligations.PointerReads := by
  refine ⟨fun a l h s s₁ s₂ h₁ => ⟨fun a' ha' h₂ => ?read16, fun a' ha' h₂ => ?read16Bug⟩, ?zeroPage,
    fun a s => s.read16Bug_eq_read16, fun a s => s.read16Bug_at_page_end⟩
  case read16 =>
    have hnext : a' = a + 1 := BitVec.eq_of_toNat_eq (ha'.trans (toNat_addr_succ a).symm)
    exact State.read16_eq h₁ (hnext ▸ h₂)
  case read16Bug =>
    have hnext : a' = word (hi a) (lo a + 1) := BitVec.eq_of_toNat_eq (ha'.trans (toNat_word_hi_lo_succ a).symm)
    exact State.read16Bug_eq h₁ (hnext ▸ h₂)
  case zeroPage =>
    intro z l h s s₁ s₂ a a' ha ha' h₁ h₂
    have hfirst : a = zext16 z := BitVec.eq_of_toNat_eq (ha.trans (zext16_toNat z).symm)
    have hnext : a' = zext16 (z + 1) :=
      BitVec.eq_of_toNat_eq (ha'.trans ((zext16_toNat _).trans (toNat_byte_succ z)).symm)
    exact State.read16ZP_eq (hfirst ▸ h₁) (hnext ▸ h₂)

/-! ## The indirect data modes -/

section
variable {s s₁ : State} {b : Byte} {w : Addr}

/-- Indirect,X: X is added before the pointer is fetched, and the pointer is the address. -/
theorem State.locate_indirectX (hp : s.read16ZP (b + s.x) = .next (w, s₁)) :
    s.locate (.indirectX b) = .next (⟨w, false⟩, s₁) := by
  simp only [State.locate, hp, andThen_next]

/-- Indirect,Y: Y is added to the pointer after it is fetched. -/
theorem State.locate_indirectY (hp : s.read16ZP b = .next (w, s₁)) :
    s.locate (.indirectY b) = s₁.indexed w s.y := by
  simp only [State.locate, hp, andThen_next]

/-- Indexing looks at the memory map only, which reads leave alone. -/
theorem State.Reads.indexed (hr : s.Reads s₁) (index : Byte) :
    s₁.indexed w index =
      let ea := w + zext16 index
      if s.kindAt (word (hi w) (lo ea)) = .device true then
        .refused (.deviceWithReadEffects (word (hi w) (lo ea)))
      else .next (⟨ea, decide (hi ea ≠ hi w)⟩, s₁) := by
  simp only [State.indexed, hr.kindAt]

end

/-- Settles O10: the pointer by `State.read16ZP_eq`; for Indirect,Y it is then indexed, and its reads leave the map as it was. -/
theorem indirectAddresses : Obligations.IndirectAddresses := by
  intro b l h s s₁ s₂
  refine ⟨fun h₁ h₂ => State.locate_indirectX (State.read16ZP_eq h₁ h₂), fun h₁ h₂ => ?_⟩
  have hreads : s.Reads s₂ := (State.read_reads h₁).trans (State.read_reads h₂)
  rw [State.locate_indirectY (State.read16ZP_eq h₁ h₂), hreads.indexed, hi_word]

end Sys2Proof.Machine
end

