-- ==== Sys2Proof/Proofs/Stack.lean ====
section
/-!
PROOFS. The stack of rule R36: the cell a push writes and a pull reads, the wrap of S inside page one, and the pull after a push
(O15).
-/

namespace Sys2Proof.Machine

open Sys2Proof.Statements

/-- A RAM cell answers a read with the byte it holds. -/
theorem State.read_ram {s : State} {a : Addr} {b : Byte} (hk : s.kindAt a = .ram) (hp : s.peek a = some b) :
    s.read a = .next (b, s) := by
  simp only [State.read, hk, hp]

/-- One less, modulo 256: 255 more. -/
theorem toNat_byte_pred (z : Byte) : (z - 1).toNat = (z.toNat + 255) % 256 := by
  rw [BitVec.toNat_sub, Nat.add_comm]
  rfl

section
variable (s : State) (v : Byte)

/-- What the statements call a push is the write and the new S of `State.push_eq`. -/
theorem pushed_eq_wrote : pushed s v = (s.wrote (stackAddr s.sp) v).setSp (s.sp - 1) := rfl

@[simp] theorem pushed_sp : (pushed s v).sp = s.sp - 1 := rfl
@[simp] theorem pushed_kindAt (a : Addr) : (pushed s v).kindAt a = s.kindAt a := rfl

theorem State.push_eq_pushed (h : s.kindAt (stackAddr s.sp) ≠ .device true) : s.push v = .next (pushed s v) := by
  rw [State.push_eq v h, pushed_eq_wrote]

/-- The stack cell in RAM holds the byte pushed. -/
theorem pushed_peek_same (h : s.kindAt (stackAddr s.sp) = .ram) : (pushed s v).peek (stackAddr s.sp) = some v :=
  State.peek_wrote_same v h

end

section
variable {s s₁ t : State} {b sp' : Byte}

/-- A pull that finds its cell readable answers the byte there and moves S to that cell. -/
theorem State.pull_of_read (hsp : sp' = s.sp + 1) (hr : s.read (stackAddr sp') = .next (b, s₁)) :
    s.pull = .next (b, { s with sp := sp', draws := s₁.draws }) := by
  subst hsp
  rw [State.pull_eq, hr, andThen_next]

/-- A pull that answers has read the cell above S. -/
theorem State.read_of_pull (h : s.pull = .next (b, t)) : ∃ u, s.read (stackAddr (s.sp + 1)) = .next (b, u) := by
  rw [State.pull_eq] at h
  obtain ⟨⟨b', u⟩, hr, h⟩ := andThen_eq_next.mp h
  cases h
  exact ⟨u, hr⟩

/-- In RAM a pull undoes a push, but for the byte left in the cell. -/
theorem pull_pushed (v : Byte) (h : s.kindAt (stackAddr s.sp) = .ram) :
    (pushed s v).pull = .next (v, { pushed s v with sp := s.sp }) := by
  have hsp : s.sp = (pushed s v).sp + 1 := by rw [pushed_sp, BitVec.sub_add_cancel]
  have hread : (pushed s v).read (stackAddr s.sp) = .next (v, pushed s v) :=
    State.read_ram (by rw [pushed_kindAt, h]) (pushed_peek_same s v h)
  exact State.pull_of_read hsp hread

end

/-- Settles O15: the push by `State.push_eq_pushed`, the pull by `State.pull_of_read` and `State.read_of_pull`, the two together
by `pull_pushed`; the wraps are those of S as a byte. -/
theorem stackPushPull : Obligations.StackPushPull := by
  intro s v
  refine ⟨stackAddr_toNat s.sp, ?push, ?pull, ?pushWrap, ?pullWrap, pull_pushed v⟩
  case push =>
    intro hk
    exact ⟨s.push_eq_pushed v hk, toNat_byte_pred s.sp⟩
  case pull =>
    intro b s₁ sp' hsp hr
    have hnext : sp' = s.sp + 1 := BitVec.eq_of_toNat_eq (hsp.trans (BitVec.toNat_add s.sp 1).symm)
    exact State.pull_of_read hnext hr
  case pushWrap =>
    intro h
    rw [pushed_sp, h]
    decide
  case pullWrap =>
    intro b t h hpull
    have hwrap : s.sp + 1 = 0x00 := by rw [h]; decide
    obtain ⟨u, hu⟩ := State.read_of_pull hpull
    obtain ⟨-, hsp⟩ := State.pull_next hpull
    rw [hwrap] at hu hsp
    exact ⟨hsp, u, hu⟩

end Sys2Proof.Machine
end

