-- ==== Sys2Proof/Proofs/Decoding.lean ====
section
/-!
PROOFS. The opcode matrix of rule R66 as the decoder has it: the instruction of an opcode byte has that opcode byte and the
operation of its cell, and no instruction is longer than three bytes (O3). With it, what holds of every row: it is well formed,
and its encoding has the length of its mode.
-/

namespace Sys2Proof

open Sys2Proof.Machine Sys2Proof.Statements

/-! ## Lengths -/

/-- Rule R51 gives no mode more than three bytes. -/
theorem Mode.length_le_three (m : Mode) : m.length ≤ 3 := by
  cases m <;> decide

theorem opcodeLength_le_three (op : Byte) : opcodeLength op ≤ 3 := Mode.length_le_three _

theorem MemMode.length_bytes (m : MemMode) : m.bytes.length + 1 = m.mode.length := by
  cases m <;> rfl

/-- An operand has the bytes its mode gives it beside the opcode byte. -/
theorem Operand.length_bytes (o : Operand) : o.bytes.length + 1 = o.mode.length := by
  match o with
  | .implied => rfl
  | .read (.immediate _) => rfl
  | .read (.memory m) => exact MemMode.length_bytes m
  | .write m => exact MemMode.length_bytes m
  | .modify .accumulator => rfl
  | .modify (.memory m) => exact MemMode.length_bytes m
  | .target _ => rfl
  | .indirect _ => rfl
  | .relative _ => rfl

theorem length_encode (i : Instr) : (encode i).length = i.length := Operand.length_bytes i.operand

/-! ## The rows -/

/-- The spec has a row for every term of `Instr`. -/
theorem Instr.wellFormed_eq_true (i : Instr) : i.wellFormed = true := by
  cases i <;> rfl

/-- The mode of an instruction is one its operation has rows for. -/
theorem Instr.mode_mem_modes (i : Instr) : i.operand.mode ∈ i.operation.modes := by
  have hwf := i.wellFormed_eq_true
  simp only [Instr.wellFormed, Form.wellFormed, Bool.and_eq_true] at hwf
  obtain ⟨hmode, -⟩ := hwf
  exact List.contains_iff_mem.mp hmode

/-! ## The matrix, cell by cell -/

section
variable (op b₁ b₂ : Byte)

/-- The instruction in a cell of the matrix is the row of that opcode byte, whatever its operand bytes. -/
theorem opcode_instrOf : (instrOf op b₁ b₂).opcode = op := by
  obtain ⟨n, hn, rfl⟩ := byte_num op
  interval_cases n <;> rfl

/-- The decoder has the operations of the matrix of rule R66. -/
theorem operation_instrOf : (instrOf op b₁ b₂).operation = (cell op).1 := by
  obtain ⟨n, hn, rfl⟩ := byte_num op
  interval_cases n <;> rfl

/-- Two bytes after the opcode byte are operand bytes enough for every row. -/
theorem decode_cons_cons (rest : List Byte) :
    decode (op :: b₁ :: b₂ :: rest) = .ok (instrOf op b₁ b₂) ((b₁ :: b₂ :: rest).drop (opcodeLength op - 1)) := by
  have hlen : ¬ (b₁ :: b₂ :: rest).length + 1 < opcodeLength op := by
    have := opcodeLength_le_three op
    simp only [List.length_cons]
    omega
  exact if_neg hlen

end

/-- Settles O3: the decoder answers the instruction in the cell of the opcode byte (`decode_cons_cons`), whose opcode byte and
operation are those of the cell. -/
theorem everyOpcodeByteDecodes : Obligations.EveryOpcodeByteDecodes := by
  intro op b₁ b₂ rest
  exact ⟨instrOf op b₁ b₂, _, decode_cons_cons op b₁ b₂ rest, opcode_instrOf op b₁ b₂, operation_instrOf op b₁ b₂⟩

end Sys2Proof
end

