-- ==== Sys2Proof/Proofs/ZeroPage.lean ====
section
/-!
PROOFS. The zero-page modes of rules R56 to R58: the address and its wrap inside the zero page, and who uses Zero Page,Y (O8).
-/

namespace Sys2Proof

/-- Rule R58 has rows for four operations. -/
theorem Operation.mem_of_zeroPageY_mem_modes {op : Operation} (h : Mode.zeroPageY ∈ op.modes) :
    op ∈ [.ldx, .stx, .lax, .sax] := by
  revert h
  cases op <;> decide

/-- An operand that is read, written or changed at a Zero Page,Y address has that mode. -/
theorem Operand.mode_of_zeroPageY {o : Operand} {b : Byte}
    (h : o ∈ [.read (.memory (.zeroPageY b)), .write (.zeroPageY b), .modify (.memory (.zeroPageY b))]) :
    o.mode = .zeroPageY := by
  simp only [List.mem_cons, List.not_mem_nil, or_false] at h
  obtain rfl | rfl | rfl := h <;> rfl

end Sys2Proof

namespace Sys2Proof.Machine

section
variable (b : Byte) (s : State)

theorem State.locate_zeroPage : s.locate (.zeroPage b) = .next (⟨zext16 b, false⟩, s) := rfl
theorem State.locate_zeroPageX : s.locate (.zeroPageX b) = .next (⟨zext16 (b + s.x), false⟩, s) := rfl
theorem State.locate_zeroPageY : s.locate (.zeroPageY b) = .next (⟨zext16 (b + s.y), false⟩, s) := rfl

/-- The sum of operand byte and index wraps inside the zero page. -/
theorem toNat_zext16_add (index : Byte) : (zext16 (b + index)).toNat = (b.toNat + index.toNat) % 256 := by
  rw [zext16_toNat, BitVec.toNat_add]

end

/-- Settles O8: the addresses by the equations of `State.locate`, the users of Zero Page,Y by the modes of the operations. -/
theorem zeroPageAddresses : Obligations.ZeroPageAddresses := by
  intro b s
  refine ⟨⟨_, s.locate_zeroPage b, zext16_toNat b⟩, ⟨_, s.locate_zeroPageX b, toNat_zext16_add b s.x⟩,
    ⟨_, s.locate_zeroPageY b, toNat_zext16_add b s.y⟩, rfl, rfl, rfl, fun i hi => ?users⟩
  case users =>
    have hmode := i.mode_mem_modes
    rw [Operand.mode_of_zeroPageY hi] at hmode
    exact Operation.mem_of_zeroPageY_mem_modes hmode

end Sys2Proof.Machine
end

