-- ==== Sys2Proof/Proofs/ProgramCounter.lean ====
section
/-!
PROOFS. What an instruction leaves in PC (rule R71): the address after its own bytes, and for a branch the target as its condition
has it (O7).
-/

namespace Sys2Proof.Machine

open Sys2Proof.Statements

/-- The sum of an address and a number of bytes wraps at the end of the memory. -/
theorem toNat_addr_add_ofNat (a : Addr) (n : Nat) : (a + BitVec.ofNat 16 n).toNat = (a.toNat + n) % 65536 := by
  rw [BitVec.toNat_add, BitVec.toNat_ofNat, Nat.add_mod_mod]

/-- The state `t` has PC past the bytes of the form `f` at the PC of `s`, where the operation does not write PC. -/
def PastItsBytes (s : State) (f : Form) (t : State) : Prop :=
  movesPc f.operation = false → t.pc = s.pc + BitVec.ofNat 16 f.operand.mode.length

/-- Where the form `f` has a Relative operand, PC of `t` is the target of the branch or the address after it, as the condition is
in `s`. -/
def PcByCondition (s : State) (f : Form) (t : State) : Prop :=
  ∀ offset : Byte, f.operand = .relative offset →
    t.pc = if branchTaken f.operation s then s.pc + 2 + sext16 offset else s.pc + 2

section
variable {s t : State} {i : Instr}

/-- A form whose last act is `State.advance` by its length, with PC as it was till then. -/
theorem PastItsBytes.advance {u : State} {f : Form} (n : Nat) (hpc : u.pc = s.pc) (hn : n = f.operand.mode.length) :
    PastItsBytes s f (u.advance n) := fun _ => by
  rw [State.advance_pc, hpc, hn]

theorem PastItsBytes.of_movesPc {f : Form} (hm : movesPc f.operation = true) : PastItsBytes s f t := fun h =>
  Bool.noConfusion (hm.symm.trans h)

/-- Every form that does not write PC ends in `State.advance`. -/
theorem exec_pastItsBytes (h : exec i s = .next t) : PastItsBytes s i.form t := by
  apply exec_cases (motive := PastItsBytes s) (h := h)
  case c_jmpAbs | c_jmpInd | c_jsr | c_rts | c_rti | c_brk | c_jam | c_bcc | c_bcs | c_beq | c_bne | c_bmi | c_bpl | c_bvc |
      c_bvs =>
    intros
    exact .of_movesPc rfl
  all_goals
    intros
    exact .advance _ rfl rfl

/-- An instruction with a Relative operand is a branch, on the condition `branchTaken` has for it (rule R103). -/
theorem exec_pcByCondition (h : exec i s = .next t) : PcByCondition s i.form t := by
  apply exec_cases (motive := PcByCondition s) (h := h)
  case c_bcc | c_bcs | c_beq | c_bne | c_bmi | c_bpl | c_bvc | c_bvs =>
    rintro _ _ ⟨⟩
    rfl
  all_goals
    intros
    exact nofun

end

/-- Settles O7: the first part is `exec_pastItsBytes` with the length of the encoding, the second `exec_pcByCondition`. -/
theorem pcAdvancesByTheLength : Obligations.PcAdvancesByTheLength := by
  intro i s t h
  refine ⟨fun hmoves => ?pastItsBytes, fun offset ho hnot => ?notTaken⟩
  case pastItsBytes =>
    have hpc : t.pc = s.pc + BitVec.ofNat 16 i.length := exec_pastItsBytes h hmoves
    rw [hpc, length_encode, toNat_addr_add_ofNat]
  case notTaken =>
    have htarget : t.pc = if branchTaken i.operation s then s.pc + 2 + sext16 offset else s.pc + 2 :=
      exec_pcByCondition h offset ho
    rw [htarget, if_neg (Bool.eq_false_iff.mp hnot)]
    exact toNat_addr_add_ofNat s.pc 2

end Sys2Proof.Machine
end

