-- ==== Sys2Proof/Proofs/BinaryArithmetic.lean ====
section
/-!
PROOFS. The binary arithmetic of rules R91 and R92 (O19) and the comparison of rule R94 (O20): the flags, which the model computes
from sign bits, by what they say of the numbers.
-/

namespace Sys2Proof.Machine

open Sys2Proof.Statements

/-! ## A byte and its complement as numbers -/

section
variable (b : Byte)

/-- Bit 7 of a byte is set from 128 on. -/
theorem bit_seven : bit b 7 = decide (128 ≤ b.toNat) := BitVec.msb_eq_decide b

/-- The signed value of a byte, by its bit 7. -/
theorem toInt_byte : b.toInt = if bit b 7 then (b.toNat : Int) - 256 else b.toNat := BitVec.toInt_eq_msb_cond b

theorem toNat_byte_not : (~~~b).toNat = 255 - b.toNat := BitVec.toNat_not

theorem bit_seven_not : bit (~~~b) 7 = !bit b 7 := BitVec.getLsbD_not

theorem toInt_byte_not : (~~~b).toInt = -b.toInt - 1 := by
  have hlt := b.isLt
  simp only [toInt_byte, bit_seven, toNat_byte_not, decide_eq_true_eq]
  split <;> split <;> omega

end

/-! ## Addition -/

section
variable (a m : Byte) (c : Bool)

theorem addBinary_r_toNat : (addBinary a m c).r.toNat = (a.toNat + m.toNat + c.toNat) % 256 := BitVec.toNat_ofNat _ _

theorem addBinary_c_iff : (addBinary a m c).c = true ↔ 256 ≤ a.toNat + m.toNat + c.toNat := decide_eq_true_iff

theorem addBinary_v_iff :
    (addBinary a m c).v = true ↔ bit a 7 = bit m 7 ∧ bit (addBinary a m c).r 7 ≠ bit a 7 := by
  simp only [addBinary, Bool.and_eq_true, beq_iff_eq, bne_iff_ne]

/-- The overflow of the sign bits is that of the signed sum. -/
theorem addBinary_v_iff_signed :
    (addBinary a m c).v = true ↔ ¬ signed8Range (a.toInt + m.toInt + c.toNat) := by
  have ha := a.isLt
  have hm := m.isLt
  have hc := c.toNat_lt
  rw [addBinary_v_iff, toInt_byte, toInt_byte, signed8Range]
  simp only [bit_seven, addBinary_r_toNat, ne_eq, decide_eq_decide, decide_eq_true_eq]
  split <;> split <;> omega

end

/-! ## Subtraction: the addition of the complement -/

section
variable (a m : Byte) (c : Bool)

theorem subBinary_r_toNat : ((subBinary a m c).r.toNat : Int) = ((a.toNat : Int) - m.toNat - (1 - c.toNat)) % 256 := by
  have hm := m.isLt
  rw [subBinary, addBinary_r_toNat, toNat_byte_not]
  omega

/-- C is set where nothing is borrowed. -/
theorem subBinary_c_iff : (subBinary a m c).c = true ↔ 0 ≤ (a.toNat : Int) - m.toNat - (1 - c.toNat) := by
  have hm := m.isLt
  rw [subBinary, addBinary_c_iff, toNat_byte_not]
  omega

theorem subBinary_v_iff :
    (subBinary a m c).v = true ↔ bit a 7 ≠ bit m 7 ∧ bit (subBinary a m c).r 7 ≠ bit a 7 := by
  rw [subBinary, addBinary_v_iff, bit_seven_not, Bool.eq_not]

theorem subBinary_v_iff_signed :
    (subBinary a m c).v = true ↔ ¬ signed8Range (a.toInt - m.toInt - (1 - c.toNat)) := by
  have hdiff : a.toInt + (-m.toInt - 1) + c.toNat = a.toInt - m.toInt - (1 - c.toNat) := by omega
  rw [subBinary, addBinary_v_iff_signed, toInt_byte_not, hdiff]

end

/-- Settles O19: what `addBinary` gives, then the same of `subBinary`, which adds the complement. -/
theorem binaryAdditionAndSubtraction : Obligations.BinaryAdditionAndSubtraction := by
  intro a m c
  exact ⟨⟨addBinary_r_toNat a m c, addBinary_c_iff a m c, addBinary_v_iff a m c, addBinary_v_iff_signed a m c⟩,
    rfl, subBinary_r_toNat a m c, subBinary_c_iff a m c, subBinary_v_iff a m c, subBinary_v_iff_signed a m c⟩

/-! ## Comparison -/

/-- The N of a comparison is that of the 8-bit difference. -/
theorem State.setCompare_n_iff (r m : Byte) (s : State) :
    (s.setCompare r m).n = true ↔ 128 ≤ (r.toNat + 256 - m.toNat) % 256 := by
  have hm := m.isLt
  have hdiff : (r - m).toNat = (r.toNat + 256 - m.toNat) % 256 := by
    rw [BitVec.toNat_sub]
    omega
  rw [State.setCompare_n, bit_seven, hdiff, decide_eq_true_iff]

/-- Settles O20: C and Z are the comparisons themselves, N is `State.setCompare_n_iff`. -/
theorem compareRule : Obligations.CompareRule := by
  intro r m s
  exact ⟨rfl, decide_eq_true_iff, decide_eq_true_iff, s.setCompare_n_iff r m⟩

end Sys2Proof.Machine
end

