-- ==== Sys2Proof/Proofs/Branches.lean ====
section
/-!
PROOFS. The eight branches of rules R103 to R111 and their cycles (rule R345): what holds of every instruction with a Relative
operand, and the offsets at the ends of their range (O42).
-/

namespace Sys2Proof.Machine

/-! ## The instructions with a Relative operand -/

section
variable {i : Instr} {offset : Byte}

/-- An instruction with a Relative operand is one of the eight branches. -/
theorem cases_of_relative {motive : Instr → Prop} (ho : i.operand = .relative offset)
    (bcc : motive (.bcc offset)) (bcs : motive (.bcs offset)) (beq : motive (.beq offset)) (bne : motive (.bne offset))
    (bmi : motive (.bmi offset)) (bpl : motive (.bpl offset)) (bvc : motive (.bvc offset)) (bvs : motive (.bvs offset)) :
    motive i := by
  cases i
  case bcc | bcs | beq | bne | bmi | bpl | bvc | bvs =>
    cases ho
    assumption
  all_goals
    exact nomatch ho

/-- The meaning of a branch is the common rule R103 on its own condition. -/
theorem exec_of_relative (s : State) (ho : i.operand = .relative offset) :
    exec i s = branch (branchTaken i.operation s) offset s :=
  cases_of_relative (motive := fun i => exec i s = branch (branchTaken i.operation s) offset s) ho
    rfl rfl rfl rfl rfl rfl rfl rfl

theorem baseCycles_of_relative (ho : i.operand = .relative offset) : baseCycles i.form = 2 :=
  cases_of_relative (motive := fun i => baseCycles i.form = 2) ho rfl rfl rfl rfl rfl rfl rfl rfl

theorem cyclesOf_of_relative (s : State) (ho : i.operand = .relative offset) :
    cyclesOf i s = 2 + branchExtra (branchTaken i.operation s) offset s := by
  rw [cyclesOf, baseCycles_of_relative ho, ho]

theorem encode_of_relative (ho : i.operand = .relative offset) : encode i = [i.opcode, offset] := by
  rw [encode, ho]
  rfl

end

/-! ## The offset -/

/-- The sign extension is the 16-bit word of the signed value. -/
theorem sext16_eq_ofInt (b : Byte) : sext16 b = BitVec.ofInt 16 b.toInt := rfl

/-- Beyond its 2 cycles a branch costs 1 where it is taken inside the page of the next instruction, 2 where it leaves it. -/
theorem two_add_branchExtra (taken : Bool) (offset : Byte) (s : State) :
    2 + branchExtra taken offset s =
      if taken then (if hi (s.pc + 2 + sext16 offset) = hi (s.pc + 2) then 3 else 4) else 2 := by
  rw [branchExtra]
  split
  · split <;> rfl
  · rfl

theorem add_sext16_zero (next : Addr) : next + sext16 0x00 = next := by
  have h : sext16 0x00 = 0#16 := by decide
  rw [h, BitVec.add_zero]

/-- Offset $FE is -2, the length of the branch. -/
theorem add_two_add_sext16_FE (pc : Addr) : pc + 2 + sext16 0xFE = pc := by
  have h : 2 + sext16 0xFE = 0#16 := by decide
  rw [BitVec.add_assoc, h, BitVec.add_zero]

/-- Offset $80 is the farthest back. -/
theorem add_sext16_80 (next : Addr) : next + sext16 0x80 = next - 128 := by
  have h : sext16 0x80 = -128 := by decide
  rw [h, BitVec.sub_eq_add_neg]

/-! ## One row -/

/-- Encoding, effect and cycles of an instruction with a Relative operand. -/
theorem relative_row {i : Instr} {offset : Byte} (s : State) (ho : i.operand = .relative offset) :
    let next := s.pc + 2
    let target := next + BitVec.ofInt 16 offset.toInt
    let taken := branchTaken i.operation s
    encode i = [i.opcode, offset] ∧ exec i s = .next { s with pc := if taken then target else next } ∧
      cyclesOf i s = if taken then (if hi target = hi next then 3 else 4) else 2 := by
  refine ⟨encode_of_relative ho, exec_of_relative s ho, ?_⟩
  rw [cyclesOf_of_relative s ho, two_add_branchExtra, sext16_eq_ofInt]

/-- Settles O42: each branch by `relative_row`, with its opcode byte and its condition; the offsets at the ends are
those of the sign extension. -/
theorem branchResult : Obligations.BranchResult := by
  intro offset s
  refine ⟨relative_row s rfl, relative_row s rfl, relative_row s rfl, relative_row s rfl, relative_row s rfl,
    relative_row s rfl, relative_row s rfl, relative_row s rfl, ?zero, ?itself, ?farthest⟩
  case zero =>
    rintro rfl
    exact add_sext16_zero (s.pc + 2)
  case itself =>
    rintro rfl
    exact add_two_add_sext16_FE s.pc
  case farthest =>
    rintro rfl
    exact add_sext16_80 (s.pc + 2)

end Sys2Proof.Machine
end

