-- ==== Sys2Proof/Proofs/OneByteRows.lean ====
section
/-!
PROOFS. The rows of the instructions without operand bytes, and the seven flag instructions and NOP of rules R132 to R138 and R146
(O39).
-/

namespace Sys2Proof.Machine

open Sys2Proof.Statements

section
variable {i : Instr} {op : Byte}

/-- An Implied row asks for no byte after the opcode byte. -/
theorem decode_of_implied (hrow : instrOf op 0 0 = i) (ho : i.operand = .implied) : decode [op] = .ok i [] := by
  have hlen : opcodeLength op = 1 := by rw [opcodeLength, hrow, Instr.length, ho]; rfl
  have henough : ¬ ([] : List Byte).length + 1 < opcodeLength op := by rw [hlen]; decide
  rw [decode, if_neg henough, List.drop_nil, List.getD_nil, List.getD_nil, hrow]

/-- An Implied operand adds nothing to the printed cycles. -/
theorem cyclesOf_of_implied (ho : i.operand = .implied) (s : State) : cyclesOf i s = baseCycles i.form := by
  rw [cyclesOf, ho]
  rfl

/-- An instruction that the matrix has, Implied, in the cell of an opcode byte has that one-byte row, with its printed cycles. -/
theorem oneByteRow_of_implied (hrow : instrOf op 0 0 = i) (ho : i.operand = .implied) :
    oneByteRow i op (baseCycles i.form) := by
  have hlen : i.length = 1 := by rw [Instr.length, ho]; rfl
  exact ⟨decode_of_implied hrow ho, ho, hlen, cyclesOf_of_implied ho⟩

end

/-- Settles O39: the rows by `oneByteRow_of_implied`; the effects are the meanings of the eight instructions as they stand, one
flag written or none, then PC past the one byte. -/
theorem flagInstructionsAndNop : Obligations.FlagInstructionsAndNop := by
  refine ⟨?clc, ?sec, ?cld, ?sed, ?cli, ?sei, ?clv, ?nop, fun s => ⟨rfl, rfl, rfl, rfl, rfl, rfl, rfl, rfl⟩⟩
  all_goals exact oneByteRow_of_implied rfl rfl

end Sys2Proof.Machine
end

