-- ==== Sys2Proof/Proofs/Exceptions.lean ====
section
/-!
PROOFS. Taking an exception (rules R306, R120): the three pushes, the reads of the vector, and the state they leave; BRK is its case
with B = 1 and the return address PC + 2 (O45).
-/

namespace Sys2Proof.Machine

open Sys2Proof.Statements

/-! ## The three pushes -/

/-- The state after the pushes of an exception: the return address, high byte first, then the status byte with B = `b`. -/
def framePushed (s : State) (ret : Addr) (b : Bool) : State := pushed (pushed (pushed s (hi ret)) (lo ret)) (pByte b s)

section
variable {s : State} {n : Nat}

/-- Where a push and `n` more find their cells writable, the first does, and after it the others do. -/
theorem stackWritable_succ (h : stackWritable s (n + 1)) (v : Byte) :
    s.kindAt (stackAddr s.sp) ≠ .device true ∧ stackWritable (pushed s v) n := by
  refine ⟨?first, fun k hk => ?others⟩
  case first =>
    have h₀ := h 0 n.succ_pos
    rwa [BitVec.sub_zero] at h₀
  case others =>
    have hsp : s.sp - 1 - BitVec.ofNat 8 k = s.sp - BitVec.ofNat 8 (k + 1) := by bv_omega
    rw [pushed_kindAt, pushed_sp, hsp]
    exact h (k + 1) (Nat.succ_lt_succ hk)

theorem State.push_of_stackWritable (h : stackWritable s (n + 1)) (v : Byte) :
    s.push v = .next (pushed s v) ∧ stackWritable (pushed s v) n := by
  obtain ⟨hk, hrest⟩ := stackWritable_succ h v
  exact ⟨s.push_eq_pushed v hk, hrest⟩

theorem State.pushWord_of_stackWritable (h : stackWritable s (n + 2)) (w : Addr) :
    s.pushWord w = .next (pushed (pushed s (hi w)) (lo w)) ∧ stackWritable (pushed (pushed s (hi w)) (lo w)) n := by
  obtain ⟨hhigh, h₁⟩ := State.push_of_stackWritable h (hi w)
  obtain ⟨hlow, h₂⟩ := State.push_of_stackWritable h₁ (lo w)
  exact ⟨by rw [State.pushWord, hhigh, andThen_next, hlow], h₂⟩

end

section
variable (s : State) (ret : Addr) (b : Bool)

/-- A push changes no flag, so the status byte is the same before and after it. -/
@[simp] theorem pByte_pushed (v : Byte) : pByte b (pushed s v) = pByte b s := rfl

theorem framePushed_sp : (framePushed s ret b).sp = s.sp - 3 := by
  have hthree : s.sp - 1 - 1 - 1 = s.sp - 3 := by bv_omega
  rw [framePushed, pushed_sp, pushed_sp, pushed_sp, hthree]

end

/-! ## The vector -/

section
variable {s s₁ s₂ : State} {l h : Byte}

/-- A read does not look at I. -/
theorem State.read_setI {a : Addr} (hr : s.read a = .next (l, s₁)) (i : Bool) :
    (s.setI i).read a = .next (l, s₁.setI i) := by
  rw [State.read_congr (s := s) (t := s.setI i) rfl rfl rfl, hr, andThen_next, State.read_reads hr]
  rfl

/-- After reads, I and PC set: the starting state with those two and the count of free values as they are now. -/
theorem State.Reads.setPc_setI (hr : s.Reads s₂) (i : Bool) (w : Addr) :
    (s₂.setI i).setPc w = { s with draws := s₂.draws, i := i, pc := w } := by
  rw [hr]
  rfl

/-- Taking an exception, computed: where the stack can take the frame and the vector can be read after it. -/
theorem State.takeException_eq {vector ret : Addr} {b : Bool} (hw : stackWritable s 3)
    (hl : (framePushed s ret b).read vector = .next (l, s₁)) (hh : s₁.read (vector + 1) = .next (h, s₂)) :
    s.takeException vector ret b =
      .next { framePushed s ret b with draws := s₂.draws, i := true, pc := word h l } := by
  obtain ⟨hword, hw₁⟩ := State.pushWord_of_stackWritable hw ret
  obtain ⟨hstatus, -⟩ := State.push_of_stackWritable hw₁ (pByte b s)
  have hvector : ((framePushed s ret b).setI true).read16 vector = .next (word h l, s₂.setI true) :=
    State.read16_eq (State.read_setI hl true) (State.read_setI hh true)
  have hreads : (framePushed s ret b).Reads s₂ := (State.read_reads hl).trans (State.read_reads hh)
  calc s.takeException vector ret b
      = andThen (((framePushed s ret b).setI true).read16 vector) fun t => .next (t.2.setPc t.1) := by
        rw [State.takeException, hword, andThen_next, pByte_pushed, pByte_pushed, hstatus, andThen_next, framePushed]
    _ = .next ((s₂.setI true).setPc (word h l)) := by rw [hvector, andThen_next]
    _ = _ := by rw [hreads.setPc_setI]

end

/-- Settles O45: BRK is `State.takeException_eq` with the vector $FFFE, the return address PC + 2 and B = 1; the bits are those of
`pByte`. -/
theorem brkTakesTheTrap : Obligations.BrkTakesTheTrap := by
  refine ⟨oneByteRow_of_implied rfl rfl, ?_⟩
  intro s s₁ s₂ l h hw t hl hh
  have hbrk : exec .brk s = s.takeException irqVector (s.pc + 2) true := rfl
  have hnext : irqVector + 1 = 0xFFFF := by decide
  rw [hbrk]
  exact ⟨State.takeException_eq hw hl (hnext ▸ hh), framePushed_sp s (s.pc + 2) true, bit_pByte_b true s,
    bit_pByte_unused true s, bit_pByte_i true s⟩

end Sys2Proof.Machine
end

