-- ==== Sys2Proof/Proofs/Jumps.lean ====
section
/-!
PROOFS. The jumps of rules R140 and R141: JMP Absolute and Indirect, and JSR with the return address it pushes (O43).
-/

namespace Sys2Proof.Machine

open Sys2Proof.Statements

section
variable {i : Instr} {addr : Addr}

/-! ## Encoding and cycles of an operand that is a whole address -/

theorem encode_of_target (ho : i.operand = .target addr) : encode i = [i.opcode, lo addr, hi addr] := by
  rw [encode, ho]
  rfl

theorem encode_of_indirect (ho : i.operand = .indirect addr) : encode i = [i.opcode, lo addr, hi addr] := by
  rw [encode, ho]
  rfl

/-- A jump to an address in the instruction adds nothing to the printed cycles. -/
theorem cyclesOf_of_target (ho : i.operand = .target addr) (s : State) : cyclesOf i s = baseCycles i.form := by
  rw [cyclesOf, ho]
  rfl

/-- Nor does a jump through a pointer, at a page end too. -/
theorem cyclesOf_of_indirect (ho : i.operand = .indirect addr) (s : State) : cyclesOf i s = baseCycles i.form := by
  rw [cyclesOf, ho]
  rfl

end

/-! ## The effects -/

/-- After reads and PC set: the starting state with that PC and the count of free values as it is now. -/
theorem State.Reads.setPc {s t : State} (hr : s.Reads t) (w : Addr) : t.setPc w = { s with draws := t.draws, pc := w } := by
  rw [hr]
  rfl

/-- JMP Indirect, computed: the two reads of the pointer, both in its page, and PC the word they make. -/
theorem execJmpInd_eq {addr : Addr} {s s₁ s₂ : State} {l h : Byte} (hl : s.read addr = .next (l, s₁))
    (hh : s₁.read (word (hi addr) (lo addr + 1)) = .next (h, s₂)) :
    execJmpInd addr s = .next { s with draws := s₂.draws, pc := word h l } := by
  have hreads : s.Reads s₂ := (State.read_reads hl).trans (State.read_reads hh)
  rw [execJmpInd, State.read16Bug_eq hl hh, andThen_next, hreads.setPc]

/-- JSR, computed: where the stack can take a word, it is the address of the last byte of the JSR. -/
theorem execJsr_eq {s : State} (hw : stackWritable s 2) (addr : Addr) :
    execJsr addr s = .next { pushed (pushed s (hi (s.pc + 2))) (lo (s.pc + 2)) with pc := addr } := by
  obtain ⟨hword, -⟩ := State.pushWord_of_stackWritable hw (s.pc + 2)
  rw [execJsr, hword, andThen_next]
  rfl

/-- Two pushes leave S two less, modulo 256. -/
theorem pushed_pushed_sp (s : State) (b c : Byte) : (pushed (pushed s b) c).sp = s.sp - 2 := by
  have htwo : s.sp - 1 - 1 = s.sp - 2 := by bv_omega
  rw [pushed_sp, pushed_sp, htwo]

/-- Settles O43: encodings and cycles are those of the operand; JMP Absolute sets PC and no more, JMP Indirect is
`execJmpInd_eq`, JSR `execJsr_eq`. -/
theorem jumpResult : Obligations.JumpResult := by
  intro addr s
  refine ⟨encode_of_target rfl, encode_of_indirect rfl, encode_of_target rfl, cyclesOf_of_target rfl s,
    cyclesOf_of_indirect rfl s, cyclesOf_of_target rfl s, rfl, ?indirect, ?subroutine⟩
  case indirect =>
    intro l h s₁ s₂ hl hh
    exact execJmpInd_eq hl hh
  case subroutine =>
    intro hw
    exact ⟨execJsr_eq hw addr, pushed_pushed_sp s (hi (s.pc + 2)) (lo (s.pc + 2))⟩

end Sys2Proof.Machine
end

