-- ==== Sys2Proof/Proofs/Transfers.lean ====
section
/-!
PROOFS. The transfers of rules R160 to R165 and the register counts INX, DEX, INY and DEY of rules R126, R127, R129 and R130 (O38).
-/

namespace Sys2Proof.Machine

open Sys2Proof.Statements

section
variable (b : Byte) (s : State)

/-! ## A register takes a value: N and Z describe it, PC goes past the one byte -/

theorem transfer_setA :
    transfer State.setA b s = .next { s with a := b, n := bit b 7, z := decide (b = 0), pc := s.pc + 1 } := rfl

theorem transfer_setX :
    transfer State.setX b s = .next { s with x := b, n := bit b 7, z := decide (b = 0), pc := s.pc + 1 } := rfl

theorem transfer_setY :
    transfer State.setY b s = .next { s with y := b, n := bit b 7, z := decide (b = 0), pc := s.pc + 1 } := rfl

end

/-- TXS is the one transfer that sets no flag. -/
theorem execTxs_eq (s : State) : execTxs s = .next { s with sp := s.x, pc := s.pc + 1 } := rfl

/-- Settles O38: the rows by `oneByteRow_of_implied`; all but TXS are a `transfer` into A, X or Y of the register copied, or of the
register itself one more or one less. -/
theorem transfersAndCounts : Obligations.TransfersAndCounts := by
  refine ⟨?tax, ?tay, ?txa, ?tya, ?tsx, ?txs, ?inx, ?dex, ?iny, ?dey, fun s => ?effects⟩
  case effects =>
    exact ⟨transfer_setX s.a s, transfer_setY s.a s, transfer_setA s.x s, transfer_setA s.y s, transfer_setX s.sp s,
      execTxs_eq s, transfer_setX (s.x + 1) s, transfer_setX (s.x - 1) s, transfer_setY (s.y + 1) s,
      transfer_setY (s.y - 1) s⟩
  all_goals exact oneByteRow_of_implied rfl rfl

end Sys2Proof.Machine
end

