-- ==== Sys2Proof/Proofs/StackInstructions.lean ====
section
/-!
PROOFS. PHA, PLA, PHP and PLP of rules R171 to R174: a push or a pull of rule R36, and what becomes of its byte (O40, O41).
-/

namespace Sys2Proof.Machine

open Sys2Proof.Statements

/-! ## PHA and PHP -/

/-- A push leaves PC alone, so PC past the one byte is that of the starting state. -/
theorem pushed_advance_one (s : State) (v : Byte) : (pushed s v).advance 1 = { pushed s v with pc := s.pc + 1 } := rfl

section
variable {s : State}

theorem execPha_eq (hw : stackWritable s 1) : execPha s = .next { pushed s s.a with pc := s.pc + 1 } := by
  obtain ⟨hpush, -⟩ := State.push_of_stackWritable hw s.a
  rw [execPha, hpush, andThen_next, pushed_advance_one]

theorem execPhp_eq (hw : stackWritable s 1) : execPhp s = .next { pushed s (pByte true s) with pc := s.pc + 1 } := by
  obtain ⟨hpush, -⟩ := State.push_of_stackWritable hw (pByte true s)
  rw [execPhp, hpush, andThen_next, pushed_advance_one]

/-- With S = $00 a push uses the first cell of the stack page, and S wraps to $FF. -/
theorem pushed_wrap (hsp : s.sp = 0x00) (v : Byte) : stackAddr s.sp = 0x0100 ∧ (pushed s v).sp = 0xFF := by
  rw [pushed_sp, hsp]
  decide

end

/-- Settles O40: the rows by `oneByteRow_of_implied`, the effects by `execPha_eq` and `execPhp_eq`, the bits by those of `pByte`,
the wrap by `pushed_wrap`. -/
theorem pushInstructions : Obligations.PushInstructions := by
  refine ⟨oneByteRow_of_implied rfl rfl, oneByteRow_of_implied rfl rfl, ?_⟩
  intro s hw
  exact ⟨execPha_eq hw, execPhp_eq hw, bit_pByte_unused true s, bit_pByte_b true s, fun hsp => pushed_wrap hsp s.a⟩

/-! ## PLA and PLP -/

section
variable {s s₁ : State} {b : Byte}

theorem execPla_eq (hr : s.read (stackAddr (s.sp + 1)) = .next (b, s₁)) :
    execPla s = .next { s with draws := s₁.draws, sp := s.sp + 1, pc := s.pc + 1, a := b, n := bit b 7,
                               z := decide (b = 0) } := by
  rw [execPla, State.pull_of_read rfl hr, andThen_next]
  rfl

theorem execPlp_eq (hr : s.read (stackAddr (s.sp + 1)) = .next (b, s₁)) :
    execPlp s = .next { s with draws := s₁.draws, sp := s.sp + 1, pc := s.pc + 1, n := bit b 7, v := bit b 6,
                               d := bit b 3, i := bit b 2, z := bit b 1, c := bit b 0 } := by
  rw [execPlp, State.pull_of_read rfl hr, andThen_next]
  rfl

/-- With S = $FF a pull wraps S to $00 and uses the first cell of the stack page. -/
theorem stackAddr_succ_wrap {sp : Byte} (hsp : sp = 0xFF) : sp + 1 = 0x00 ∧ stackAddr (sp + 1) = 0x0100 := by
  rw [hsp]
  decide

end

/-- Settles O41: the rows by `oneByteRow_of_implied`, the effects by `execPla_eq` and `execPlp_eq`, the wrap by
`stackAddr_succ_wrap`. -/
theorem pullInstructions : Obligations.PullInstructions := by
  refine ⟨oneByteRow_of_implied rfl rfl, oneByteRow_of_implied rfl rfl, ?_⟩
  intro s s₁ b hr
  have hpla := execPla_eq hr
  have hplp := execPlp_eq hr
  exact ⟨hpla, hplp, stackAddr_succ_wrap⟩

end Sys2Proof.Machine
end

