-- ==== Sys2Proof/Proofs/Returns.lean ====
section
/-!
PROOFS. RTS and RTI of rules R169 and R168: a word pulled from the stack, after the status byte for RTI. The statement reads the
stack cells one after the other without moving S; the instructions move S, and RTI the flags, between the reads (O44).
-/

namespace Sys2Proof.Machine

open Sys2Proof.Statements

section
variable {s s₁ s₂ s₃ : State} {p l h : Byte}

/-- Of a state a read looks at the memory map, the memory and the count of free values: a read after `s₁` answers the same in any
state `t` that has the first two of the starting state and the count of `s₁`. -/
theorem State.Reads.read_after {t : State} {a : Addr} (hs : s.Reads s₁) (hparams : t.params = s.params)
    (hmem : t.mem = s.mem) (hdraws : t.draws = s₁.draws) (hr : s₁.read a = .next (l, s₂)) :
    t.read a = .next (l, { t with draws := s₂.draws }) := by
  have hparams₁ : t.params = s₁.params := by rw [hparams, hs]
  have hmem₁ : t.mem = s₁.mem := by rw [hmem, hs]
  rw [State.read_congr hparams₁ hmem₁ hdraws, hr, andThen_next]

/-- A word pulled, computed: the two cells above S, the low byte first. -/
theorem State.pullWord_of_reads (hl : s.read (stackAddr (s.sp + 1)) = .next (l, s₁))
    (hh : s₁.read (stackAddr (s.sp + 2)) = .next (h, s₂)) :
    s.pullWord = .next (word h l, { s with sp := s.sp + 2, draws := s₂.draws }) := by
  have htwo : s.sp + 2 = s.sp + 1 + 1 := by bv_omega
  have hlow : s.pull = .next (l, { s with sp := s.sp + 1, draws := s₁.draws }) := State.pull_of_read rfl hl
  have hread := (State.read_reads hl).read_after (t := { s with sp := s.sp + 1, draws := s₁.draws }) rfl rfl rfl hh
  rw [State.pullWord, hlow, andThen_next, State.pull_of_read htwo hread, andThen_next]

/-- RTS, computed: the word pulled is the address of the last byte of the JSR. -/
theorem execRts_eq (hl : s.read (stackAddr (s.sp + 1)) = .next (l, s₁))
    (hh : s₁.read (stackAddr (s.sp + 2)) = .next (h, s₂)) :
    execRts s = .next { s with draws := s₂.draws, sp := s.sp + 2, pc := word h l + 1 } := by
  rw [execRts, State.pullWord_of_reads hl hh, andThen_next]
  rfl

/-- The state in which RTI has pulled the status byte and set the flags, with `k` free values taken. -/
def statusPulled (s : State) (p : Byte) (k : Nat) : State := State.setP p { s with sp := s.sp + 1, draws := k }

/-- The reads that follow a status byte answer the same once S and the flags are set. -/
theorem State.Reads.statusPulled_read {a : Addr} (hs : s.Reads s₁) (hr : s₁.read a = .next (l, s₂)) :
    (statusPulled s p s₁.draws).read a = .next (l, statusPulled s p s₂.draws) :=
  hs.read_after (s₂ := s₂) rfl rfl rfl hr

/-- The return from an exception, computed: the flags of the first byte pulled, PC the word after it. -/
theorem State.returnFromException_eq (hp : s.read (stackAddr (s.sp + 1)) = .next (p, s₁))
    (hl : s₁.read (stackAddr (s.sp + 2)) = .next (l, s₂)) (hh : s₂.read (stackAddr (s.sp + 3)) = .next (h, s₃)) :
    s.returnFromException =
      .next { s with draws := s₃.draws, sp := s.sp + 3, n := bit p 7, v := bit p 6, d := bit p 3, i := bit p 2,
                     z := bit p 1, c := bit p 0, pc := word h l } := by
  have htwo : s.sp + 2 = s.sp + 1 + 1 := by bv_omega
  have hthree : s.sp + 3 = s.sp + 1 + 2 := by bv_omega
  have hs₁ : s.Reads s₁ := State.read_reads hp
  have hs₂ : s.Reads s₂ := hs₁.trans (State.read_reads hl)
  have hword : (statusPulled s p s₁.draws).pullWord =
      .next (word h l, { statusPulled s p s₃.draws with sp := s.sp + 3 }) := by
    rw [htwo] at hl
    rw [hthree] at hh ⊢
    exact State.pullWord_of_reads (hs₁.statusPulled_read hl) (hs₂.statusPulled_read hh)
  rw [State.returnFromException, State.pull_of_read rfl hp, andThen_next, ← statusPulled, hword, andThen_next]
  rfl

end

/-- Settles O44: the rows by `oneByteRow_of_implied`; RTS is `execRts_eq`, RTI `State.returnFromException_eq`. -/
theorem returnResult : Obligations.ReturnResult := by
  refine ⟨oneByteRow_of_implied rfl rfl, oneByteRow_of_implied rfl rfl, ?rts, ?rti⟩
  case rts =>
    intro s s₁ s₂ l h hl hh
    exact execRts_eq hl hh
  case rti =>
    intro s s₁ s₂ s₃ p l h hp hl hh
    exact State.returnFromException_eq hp hl hh

end Sys2Proof.Machine
end

