-- ==== Sys2Proof/Proofs/IllegalImmediates.lean ====
section
/-!
PROOFS. The stable illegal instructions with an Immediate operand and no open point: ANC, ALR and SBX of rules R208, R209 and R211
(O33).
-/

namespace Sys2Proof.Machine

/-! ## The instructions with an Immediate operand (rule R55) -/

section
variable {i : Instr} {imm : Byte}

theorem encode_of_immediate (ho : i.operand = .read (.immediate imm)) : encode i = [i.opcode, imm] := by
  rw [encode, ho]
  rfl

theorem length_of_immediate (ho : i.operand = .read (.immediate imm)) : i.length = 2 := by
  rw [Instr.length, ho]
  rfl

/-- An Immediate operand costs 2 cycles, for every operation that rule R72 gives no count of its own. -/
theorem cyclesOf_of_immediate (ho : i.operand = .read (.immediate imm)) (hfixed : fixedCycles i.operation = none)
    (s : State) : cyclesOf i s = 2 := by
  have hform : i.form = ⟨i.operation, .read (.immediate imm)⟩ := by rw [← ho]; rfl
  have hbase : baseCycles i.form = 2 := by rw [hform, baseCycles, hfixed]
  rw [cyclesOf, hbase, ho]
  rfl

end

/-! ## The right shift as a number -/

section
variable (m : Byte) (c : Bool)

theorem toNat_lsr : (lsr m c).1.toNat = m.toNat / 2 := by
  have hm := m.isLt
  rw [lsr, BitVec.toNat_ofNat]
  omega

/-- A right shift leaves bit 7 clear, whatever the carry. -/
theorem bit_seven_lsr : bit (lsr m c).1 7 = false := by
  have hm := m.isLt
  rw [bit_seven, toNat_lsr, decide_eq_false_iff_not]
  omega

end

/-! ## The effects -/

section
variable (imm : Byte) (s : State)

theorem anc_eq :
    anc imm s = .next { s with a := s.a &&& imm, n := bit (s.a &&& imm) 7, z := decide (s.a &&& imm = 0),
                               c := bit (s.a &&& imm) 7, pc := s.pc + 2 } := rfl

/-- ALR takes N from a byte shifted right, so N is clear. -/
theorem execAlr_eq :
    execAlr imm s = .next { s with a := (lsr (s.a &&& imm) s.c).1, n := false,
                                   z := decide ((lsr (s.a &&& imm) s.c).1 = 0), c := bit (s.a &&& imm) 0,
                                   pc := s.pc + 2 } := by
  rw [← bit_seven_lsr (s.a &&& imm) s.c]
  rfl

theorem execSbx_eq :
    execSbx imm s = .next { s with x := (s.a &&& s.x) - imm, c := decide (imm.toNat ≤ (s.a &&& s.x).toNat),
                                   z := decide (s.a &&& s.x = imm), n := bit ((s.a &&& s.x) - imm) 7,
                                   pc := s.pc + 2 } := rfl

end

/-- Settles O33: encodings, lengths and cycles are those of an Immediate operand; both ANC are `anc_eq`, ALR is `execAlr_eq` with
the halved byte of `toNat_lsr`, SBX `execSbx_eq`. -/
theorem immediateIllegalResult : Obligations.ImmediateIllegalResult := by
  intro m s
  refine ⟨encode_of_immediate rfl, encode_of_immediate rfl, encode_of_immediate rfl, encode_of_immediate rfl,
    ?lengthAndCycles, ?anc, ⟨(lsr (s.a &&& m) s.c).1, toNat_lsr (s.a &&& m) s.c, ?alr⟩, ?sbx⟩
  case lengthAndCycles =>
    intro i hi
    simp only [List.mem_cons, List.not_mem_nil, or_false] at hi
    obtain rfl | rfl | rfl | rfl := hi
    all_goals exact ⟨length_of_immediate rfl, cyclesOf_of_immediate rfl rfl s⟩
  case anc =>
    intro i hi
    simp only [List.mem_cons, List.not_mem_nil, or_false] at hi
    obtain rfl | rfl := hi
    all_goals exact anc_eq m s
  case alr =>
    exact execAlr_eq m s
  case sbx =>
    exact execSbx_eq m s

end Sys2Proof.Machine
end

