-- ==== Sys2Proof/Proofs/RoundTrip.lean ====
section
/-!
PROOFS. Encoding and decoding undo each other (O1, O2), and every instruction is the row of its opcode byte (O4). The one fact about
the matrix both directions turn on is `row_of_opcode`: which operand bytes the instruction in a cell keeps, and that its own
operand bytes give it back.
-/

namespace Sys2Proof

open Sys2Proof.Machine Sys2Proof.Statements

/-- The operand bytes of the instruction in a cell are the first ones offered to it, as many as its length asks for; and an
instruction is the one in its cell with its own operand bytes. Where the operand is a word, both hold because a word is its two
bytes; elsewhere by computation. -/
theorem row_of_opcode (i : Instr) :
    (∀ b₁ b₂ : Byte, (instrOf i.opcode b₁ b₂).operand.bytes = [b₁, b₂].take (i.length - 1)) ∧
      ∀ rest : List Byte,
        instrOf i.opcode ((i.operand.bytes ++ rest).getD 0 0) ((i.operand.bytes ++ rest).getD 1 0) = i := by
  cases i
  all_goals simp only [Instr.opcode]
  case nop0C | oraAbs | aslAbs | sloAbs | oraAbsY | sloAbsY | nop1C | oraAbsX | aslAbsX | sloAbsX | jsr | bitAbs | andAbs |
      rolAbs | rlaAbs | andAbsY | rlaAbsY | nop3C | andAbsX | rolAbsX | rlaAbsX | jmpAbs | eorAbs | lsrAbs | sreAbs | eorAbsY |
      sreAbsY | nop5C | eorAbsX | lsrAbsX | sreAbsX | jmpInd | adcAbs | rorAbs | rraAbs | adcAbsY | rraAbsY | nop7C | adcAbsX |
      rorAbsX | rraAbsX | styAbs | staAbs | stxAbs | saxAbs | staAbsY | tas | shy | staAbsX | shx | shaAbsY | ldyAbs | ldaAbs |
      ldxAbs | laxAbs | ldaAbsY | las | ldyAbsX | ldaAbsX | ldxAbsY | laxAbsY | cpyAbs | cmpAbs | decAbs | dcpAbs | cmpAbsY |
      dcpAbsY | nopDC | cmpAbsX | decAbsX | dcpAbsX | cpxAbs | sbcAbs | incAbs | iscAbs | sbcAbsY | iscAbsY | nopFC | sbcAbsX |
      incAbsX | iscAbsX =>
    exact ⟨fun b₁ b₂ => congrArg₂ (fun x y => [x, y]) (lo_word b₂ b₁) (hi_word b₂ b₁),
      fun _ => congrArg _ (word_hi_lo _)⟩
  all_goals
    exact ⟨fun _ _ => rfl, fun _ => rfl⟩

theorem length_operand_bytes (i : Instr) : i.operand.bytes.length = i.length - 1 := by
  have h := Operand.length_bytes i.operand
  rw [Instr.length]
  omega

/-- The fetch of an opcode byte asks for as many bytes as the instruction has: the instruction in the cell keeps that many. -/
theorem opcodeLength_opcode (i : Instr) : opcodeLength i.opcode = i.length := by
  obtain ⟨hbytes, -⟩ := row_of_opcode i
  have hcell : (instrOf i.opcode 0 0).operand.bytes.length + 1 = opcodeLength i.opcode := Operand.length_bytes _
  have hpos : 0 < i.length := by rw [← length_encode i, encode]; exact Nat.succ_pos _
  have hmax : i.length ≤ 3 := Mode.length_le_three _
  rw [← hcell, hbytes, List.length_take, List.length_cons, List.length_singleton]
  omega

/-- Decoding the encoding of an instruction gives it back and leaves what follows. -/
theorem decode_encode_append (i : Instr) (rest : List Byte) : decode (encode i ++ rest) = .ok i rest := by
  obtain ⟨-, hback⟩ := row_of_opcode i
  have hlen := length_operand_bytes i
  have henough : ¬ (i.operand.bytes ++ rest).length + 1 < opcodeLength i.opcode := by
    rw [opcodeLength_opcode, List.length_append]
    omega
  have hdrop : (i.operand.bytes ++ rest).drop (opcodeLength i.opcode - 1) = rest := by
    rw [opcodeLength_opcode, ← hlen, List.drop_left]
  rw [encode, List.cons_append, decode, if_neg henough, hback, hdrop]

/-- Settles O1 by `decode_encode_append`, which every term of `Instr` meets. -/
theorem decodeEncodeRoundTrip : Obligations.DecodeEncodeRoundTrip :=
  fun i rest _ => decode_encode_append i rest

/-- The first one or two of a list's bytes, read with a default, are its own where the list is that long. -/
theorem take_getD_pair {n : Nat} {l : List Byte} (hn : n ≤ 2) (hl : n ≤ l.length) :
    [l.getD 0 0, l.getD 1 0].take n = l.take n := by
  match l, n with
  | [], n =>
    obtain rfl : n = 0 := Nat.le_zero.mp hl
    rfl
  | [_], 0 => rfl
  | [_], 1 => rfl
  | _ :: _ :: _, 0 => rfl
  | _ :: _ :: _, 1 => rfl
  | _ :: _ :: _, 2 => rfl

/-- The encoding of the instruction in a cell is its opcode byte and the operand bytes it kept. -/
theorem encode_instrOf (op b₁ b₂ : Byte) :
    encode (instrOf op b₁ b₂) = op :: [b₁, b₂].take (opcodeLength op - 1) := by
  have hop := opcode_instrOf op b₁ b₂
  have hlen := opcodeLength_opcode (instrOf op b₁ b₂)
  obtain ⟨hbytes, -⟩ := row_of_opcode (instrOf op b₁ b₂)
  rw [hop] at hlen hbytes
  rw [encode, hop, hbytes, hlen]

/-- Settles O2: what the decoder took off the bytes is what the encoding of its instruction puts back (`encode_instrOf`). -/
theorem encodeDecodeRoundTrip : Obligations.EncodeDecodeRoundTrip := by
  intro bytes i rest h
  refine ⟨?_, i.wellFormed_eq_true⟩
  match bytes with
  | [] => exact nomatch h
  | op :: tail =>
    rw [decode] at h
    split at h
    · exact nomatch h
    · next henough =>
      cases h
      have htwo : opcodeLength op - 1 ≤ 2 := by have := opcodeLength_le_three op; omega
      have hthere : opcodeLength op - 1 ≤ tail.length := by omega
      rw [encode_instrOf, take_getD_pair htwo hthere, List.cons_append, List.take_append_drop]

/-- The length of a mode, class by class (rule R51). -/
theorem Mode.length_classes (m : Mode) :
    (m.length = 1 ↔ m ∈ [.implied, .accumulator]) ∧
    (m.length = 3 ↔ m ∈ [.absolute, .absoluteX, .absoluteY, .indirect]) ∧
    (m.length = 2 ↔ m ∈ [.immediate, .zeroPage, .zeroPageX, .zeroPageY, .indirectX, .indirectY, .relative]) := by
  cases m <;> decide

/-- Operation, mode and printed time of an instruction stand in the matrix cell of its opcode byte. -/
theorem row_eq_cell (i : Instr) : (i.operation, i.operand.mode, baseCycles i.form) = cell i.opcode := by
  cases i
  all_goals
    simp only [Instr.opcode]
    rfl

/-- Settles O4: the row by `row_eq_cell`, the lengths by `length_encode` and `Mode.length_classes`. -/
theorem everyRowHasItsModeLengthAndTime : Obligations.EveryRowHasItsModeLengthAndTime := by
  intro i
  exact ⟨row_eq_cell i, length_encode i, i.operand.mode.length_classes⟩

/-- Bytes that are the encoding of an instruction decode to it. -/
theorem decode_of_encode {i : Instr} {bytes : List Byte} (h : encode i = bytes) : decode bytes = .ok i [] := by
  rw [← h, ← List.append_nil (encode i)]
  exact decode_encode_append i []

/-- Settles O5: each byte string is the encoding of the instruction the spec prints it for. -/
theorem wordsOfTheSpecDecode : Obligations.WordsOfTheSpecDecode := by
  refine ⟨?_, ?_, ?_, ?_, ?_, ?_, ?_, ?_, ?_, ?_, ?_, ?_, ?_, ?_, ?_⟩
  all_goals exact decode_of_encode rfl

end Sys2Proof
end

