-- ==== Sys2Proof/Proofs/MemoryCells.lean ====
section
/-!
PROOFS. What a read and a write do in each kind of cell (rules R45, R46: O12, O14), a byte written and read back (O13), what finding
an address and reading an operand leave alone (O16), and the addresses of the absolute modes (rules R59 to R61: O9).
-/

namespace Sys2Proof.Machine

/-! ## The kinds of cell -/

section
variable {s : State} {a : Addr}

/-- A RAM or ROM cell answers a read with the byte it holds. -/
theorem State.read_of_holding {b : Byte} (hk : s.kindAt a = .ram ∨ s.kindAt a = .rom) (hp : s.peek a = some b) :
    s.read a = .next (b, s) := by
  obtain hk | hk := hk <;> simp only [State.read, hk, hp]

theorem State.read_of_empty (hk : s.kindAt a = .ram ∨ s.kindAt a = .rom) (hp : s.peek a = none) :
    s.read a = .fault (.readOfUnspecified a) := by
  obtain hk | hk := hk <;> simp only [State.read, hk, hp]

theorem State.read_of_unmapped (hk : s.kindAt a = .unmapped) : s.read a = .fault (.readOfUnmapped a) := by
  simp only [State.read, hk]

theorem State.read_of_device (hk : s.kindAt a = .device false) :
    s.read a = .next (Config.deviceRead s.draws a, s.countDraw) := by
  simp only [State.read, hk]

theorem State.read_of_readEffects (hk : s.kindAt a = .device true) : s.read a = .refused (.deviceWithReadEffects a) := by
  simp only [State.read, hk]

theorem State.write_of_ram (v : Byte) (hk : s.kindAt a = .ram) :
    s.write a v = .next (s.setMem (Memory.set s.mem a.toNat v)) := by
  simp only [State.write, hk]

theorem State.write_of_rom (v : Byte) (hk : s.kindAt a = .rom) : s.write a v = .next s := by
  simp only [State.write, hk]

theorem State.write_of_unmapped (v : Byte) (hk : s.kindAt a = .unmapped) : s.write a v = .next s := by
  simp only [State.write, hk]

theorem State.write_of_device (v : Byte) (hk : s.kindAt a = .device false) :
    s.write a v = .next (s.logDevice (a.toNat, v)) := by
  simp only [State.write, hk]

theorem State.write_of_readEffects (v : Byte) (hk : s.kindAt a = .device true) :
    s.write a v = .refused (.deviceWithReadEffects a) := by
  simp only [State.write, hk]

end

/-- An address in no line of the memory map is RAM. -/
theorem kindIn_of_no_region {map : List Region} {k : Nat} (h : ∀ r ∈ map, regionHolds r k = false) :
    kindIn map k = .ram := by
  induction map with
  | nil => rfl
  | cons r rest ih =>
    obtain ⟨hr, hrest⟩ := List.forall_mem_cons.mp h
    rw [kindIn, hr, if_neg Bool.false_ne_true, ih hrest]

/-- Settles O12: one law for each kind of cell, and `kindIn_of_no_region` for an address no line of the map holds. -/
theorem memoryKinds : Obligations.MemoryKinds := by
  refine ⟨fun s a b v => ?_, fun s a h => kindIn_of_no_region h⟩
  exact ⟨State.write_of_ram v, State.write_of_rom v, State.write_of_unmapped v, State.write_of_device v,
    State.read_of_holding, State.read_of_empty, State.read_of_unmapped, State.read_of_device⟩

/-- Settles O14. -/
theorem deviceReadEffectsAreRefused : Obligations.DeviceReadEffectsAreRefused := by
  intro s a v hk
  exact ⟨State.read_of_readEffects hk, State.write_of_readEffects v hk⟩

/-! ## A write, then a read -/

/-- A write to a cell that is not RAM leaves every cell as it was. -/
theorem State.peek_wrote_of_ne_ram {s : State} {a : Addr} (v : Byte) (hk : s.kindAt a ≠ .ram) (k : Addr) :
    (s.wrote a v).peek k = s.peek k := by
  simp only [State.peek, State.wrote, if_neg hk]

/-- Settles O13: the written cell by `State.peek_wrote_same`, every other by `State.peek_wrote_other`. -/
theorem writeThenRead : Obligations.WriteThenRead := by
  intro s t a v h
  obtain ⟨-, rfl⟩ := State.write_next h
  refine ⟨fun hram => ?same, fun k hk => ?others⟩
  case same =>
    have hkind : (s.wrote a v).kindAt a = .ram := hram
    exact State.read_ram hkind (State.peek_wrote_same v hram)
  case others =>
    obtain hne | hkind := hk
    · exact State.peek_wrote_other v hne
    · exact State.peek_wrote_of_ne_ram v hkind k

/-! ## Addresses and operands -/

/-- Settles O16: `State.Reads`, which every address and every operand byte meets. -/
theorem readsChangeOnlyTheDrawCount : Obligations.ReadsChangeOnlyTheDrawCount :=
  ⟨fun _ _ _ _ h => State.locate_reads h, fun _ _ _ _ h => State.readSource_reads h⟩

theorem State.locate_absolute (a : Addr) (s : State) : s.locate (.absolute a) = .next (⟨a, false⟩, s) := rfl

/-- The indexed address of the sum, and the cell of the base's page that the real part reads as well, as numbers. -/
theorem State.indexed_spec (s : State) (base : Addr) (index : Byte) :
    ∃ ea uncarried : Addr, ea.toNat = (base.toNat + index.toNat) % 65536 ∧
      uncarried.toNat = base.toNat / 256 * 256 + ea.toNat % 256 ∧
      (s.kindAt uncarried = .device true → s.indexed base index = .refused (.deviceWithReadEffects uncarried)) ∧
      (s.kindAt uncarried ≠ .device true →
        ∃ crossed : Bool, s.indexed base index = .next (⟨ea, crossed⟩, s) ∧
          (crossed = true ↔ ea.toNat / 256 ≠ base.toNat / 256)) := by
  refine ⟨base + zext16 index, word (hi base) (lo (base + zext16 index)), ?sum, ?uncarried, fun hk => if_pos hk,
    fun hk => ⟨_, if_neg hk, ?crossed⟩⟩
  case sum => rw [BitVec.toNat_add, zext16_toNat]
  case uncarried => rw [word_toNat, hi_toNat, lo_toNat]
  case crossed => rw [decide_eq_true_iff, ne_eq, ← BitVec.toNat_inj, hi_toNat, hi_toNat]

/-- Settles O9: Absolute,X and Absolute,Y are `State.indexed` by the register (`State.indexed_spec`). -/
theorem absoluteAddresses : Obligations.AbsoluteAddresses := by
  intro base s
  refine ⟨s.locate_absolute base, ?_⟩
  rintro m index (⟨rfl, rfl⟩ | ⟨rfl, rfl⟩)
  · exact s.indexed_spec base s.x
  · exact s.indexed_spec base s.y

end Sys2Proof.Machine
end

