-- ==== Sys2Proof/Proofs/Frames.lean ====
section
/-!
PROOFS. What each instruction leaves alone, read off `exec_cases`: the registers (O53), the flags and the rest of the state (O54), and
memory (O17, O18). Of a register or flag the writers are named, and every other form leaves it as it was.
-/

namespace Sys2Proof.Machine

open Sys2Proof.Statements

section
variable {i : Instr} {s t : State}

/-! ## Registers -/

/-- A is written by the forms of rule R10, or not at all. -/
theorem exec_writesA_or (h : exec i s = .next t) : writesA i.form = true ∨ t.a = s.a := by
  apply exec_cases (motive := fun f t => writesA f = true ∨ t.a = s.a) (h := h)
  case c_adc | c_sbc | c_and | c_ora | c_eor | c_lda | c_lax | c_aslA | c_lsrA | c_rolA | c_rorA | c_slo | c_rla | c_sre |
      c_rra | c_isc | c_anc | c_alr | c_arr | c_las | c_txa | c_tya | c_pla | c_sbcEB =>
    intros
    exact .inl rfl
  all_goals
    intros
    exact .inr rfl

theorem exec_writesX_or (h : exec i s = .next t) : writesX i.operation = true ∨ t.x = s.x := by
  apply exec_cases (motive := fun f t => writesX f.operation = true ∨ t.x = s.x) (h := h)
  case c_ldx | c_lax | c_sbx | c_las | c_tax | c_tsx | c_inx | c_dex =>
    intros
    exact .inl rfl
  all_goals
    intros
    exact .inr rfl

theorem exec_writesY_or (h : exec i s = .next t) : writesY i.operation = true ∨ t.y = s.y := by
  apply exec_cases (motive := fun f t => writesY f.operation = true ∨ t.y = s.y) (h := h)
  case c_ldy | c_tay | c_iny | c_dey =>
    intros
    exact .inl rfl
  all_goals
    intros
    exact .inr rfl

theorem exec_writesS_or (h : exec i s = .next t) : writesS i.operation = true ∨ t.sp = s.sp := by
  apply exec_cases (motive := fun f t => writesS f.operation = true ∨ t.sp = s.sp) (h := h)
  case c_txs | c_las | c_tas | c_pha | c_php | c_pla | c_plp | c_jsr | c_rts | c_rti | c_brk =>
    intros
    exact .inl rfl
  all_goals
    intros
    exact .inr rfl

/-! ## Flags -/

theorem exec_writesC_or (h : exec i s = .next t) : writesC i.operation = true ∨ t.c = s.c := by
  apply exec_cases (motive := fun f t => writesC f.operation = true ∨ t.c = s.c) (h := h)
  case c_adc | c_sbc | c_asl | c_lsr | c_rol | c_ror | c_aslA | c_lsrA | c_rolA | c_rorA | c_cmp | c_cpx | c_cpy | c_clc |
      c_sec | c_plp | c_rti | c_slo | c_rla | c_sre | c_rra | c_dcp | c_isc | c_anc | c_alr | c_arr | c_sbx | c_sbcEB =>
    intros
    exact .inl rfl
  all_goals
    intros
    exact .inr rfl

theorem exec_writesV_or (h : exec i s = .next t) : writesV i.operation = true ∨ t.v = s.v := by
  apply exec_cases (motive := fun f t => writesV f.operation = true ∨ t.v = s.v) (h := h)
  case c_adc | c_sbc | c_rra | c_isc | c_bit | c_arr | c_clv | c_plp | c_rti | c_sbcEB =>
    intros
    exact .inl rfl
  all_goals
    intros
    exact .inr rfl

theorem exec_writesD_or (h : exec i s = .next t) : writesD i.operation = true ∨ t.d = s.d := by
  apply exec_cases (motive := fun f t => writesD f.operation = true ∨ t.d = s.d) (h := h)
  case c_cld | c_sed | c_plp | c_rti =>
    intros
    exact .inl rfl
  all_goals
    intros
    exact .inr rfl

theorem exec_writesI_or (h : exec i s = .next t) : writesI i.operation = true ∨ t.i = s.i := by
  apply exec_cases (motive := fun f t => writesI f.operation = true ∨ t.i = s.i) (h := h)
  case c_cli | c_sei | c_plp | c_rti | c_brk =>
    intros
    exact .inl rfl
  all_goals
    intros
    exact .inr rfl

/-- N and Z are left alone by the operations that list neither, all of which are named here. -/
theorem exec_keepsNZ (h : exec i s = .next t) : keepsNZ i.operation = false ∨ t.n = s.n ∧ t.z = s.z := by
  apply exec_cases (motive := fun f t => keepsNZ f.operation = false ∨ t.n = s.n ∧ t.z = s.z) (h := h)
  case c_bcc | c_bcs | c_beq | c_bne | c_bmi | c_bpl | c_bvc | c_bvs | c_brk | c_clc | c_sec | c_cld | c_sed | c_cli | c_sei |
      c_clv | c_jmpAbs | c_jmpInd | c_jsr | c_nop | c_txs | c_rts | c_pha | c_php | c_sta | c_stx | c_sty | c_sax | c_sha |
      c_shx | c_shy | c_tas | c_jam | c_illegalNop | c_illegalNopImm | c_illegalNopMem =>
    intros
    exact .inr ⟨rfl, rfl⟩
  all_goals
    intros
    exact .inl rfl

/-! ## The hidden conditions and the model's own fields -/

theorem exec_jams_or (h : exec i s = .next t) : i.operation = .jam ∨ t.jammed = s.jammed := by
  apply exec_cases (motive := fun f t => f.operation = .jam ∨ t.jammed = s.jammed) (h := h)
  case c_jam => exact .inl rfl
  all_goals
    intros
    exact .inr rfl

/-- What no instruction touches: what the host asserts, the cycle count and the parameters. -/
def State.outside (s : State) : (Bool × Bool × Bool) × List BoundaryInput × Nat × Params :=
  ((s.irqLine, s.nmiPending, s.resetPending), s.inputs, s.cycles, s.params)

theorem State.outside_inj : t.outside = s.outside ↔ t.irqLine = s.irqLine ∧ t.nmiPending = s.nmiPending ∧
    t.resetPending = s.resetPending ∧ t.inputs = s.inputs ∧ t.cycles = s.cycles ∧ t.params = s.params := by
  simp only [State.outside, Prod.mk.injEq, and_assoc]

theorem exec_outside (h : exec i s = .next t) : t.outside = s.outside := by
  apply exec_cases (motive := fun _ t => t.outside = s.outside) (h := h)
  all_goals
    intros
    rfl

end

/-- A Boolean that is false leaves the other side of a disjunction. -/
theorem of_writes_or {b : Bool} {P : Prop} (h : b = true ∨ P) (hb : b = false) : P :=
  h.resolve_left (ne_true_of_eq_false hb)

/-- Settles O53: for each register, the named writers or the register as it was. -/
theorem registersWrittenOnlyByTheirInstructions : Obligations.RegistersWrittenOnlyByTheirInstructions := by
  intro i s t h
  exact ⟨of_writes_or (exec_writesA_or h), of_writes_or (exec_writesX_or h), of_writes_or (exec_writesY_or h),
    of_writes_or (exec_writesS_or h)⟩

/-- Settles O54: for each flag, the named writers or the flag as it was. -/
theorem flagsWrittenOnlyByTheirInstructions : Obligations.FlagsWrittenOnlyByTheirInstructions := by
  intro i s t h
  have hnz : keepsNZ i.operation = true → t.n = s.n ∧ t.z = s.z := fun hk =>
    (exec_keepsNZ h).resolve_left (ne_false_of_eq_true hk)
  exact ⟨of_writes_or (exec_writesC_or h), of_writes_or (exec_writesV_or h), of_writes_or (exec_writesD_or h),
    of_writes_or (exec_writesI_or h), hnz, (exec_jams_or h).resolve_left, State.outside_inj.mp (exec_outside h)⟩

/-! ## Memory -/

/-- The memory operand that a form stores to. -/
def Stores (f : Form) (m : MemMode) : Prop := f.operand = .write m ∨ f.operand = .modify (.memory m)

/-- The operations that push. -/
def pushes (op : Operation) : Bool := [.pha, .php, .jsr, .brk].contains op

section
variable {i : Instr} {s t : State}

/-- What an instruction can do to the memory and to the device log: nothing; or write one byte, at the address of the operand it
stores to; or it is one of the four that push. -/
theorem exec_memory (h : exec i s = .next t) :
    (t.mem = s.mem ∧ t.deviceLog = s.deviceLog) ∨
    (∃ m l u v, Stores i.form m ∧ s.locate m = .next (l, u) ∧ t.mem = (s.wrote l.ea v).mem ∧
      t.deviceLog = (s.wrote l.ea v).deviceLog) ∨
    pushes i.operation = true := by
  apply exec_cases (motive := fun f t => (t.mem = s.mem ∧ t.deviceLog = s.deviceLog) ∨
    (∃ m l u v, Stores f m ∧ s.locate m = .next (l, u) ∧ t.mem = (s.wrote l.ea v).mem ∧
      t.deviceLog = (s.wrote l.ea v).deviceLog) ∨ pushes f.operation = true) (h := h)
  case c_sta | c_stx | c_sty | c_sax =>
    rintro m l k ⟨u, hl⟩ -
    exact .inr (.inl ⟨m, l, u, _, .inl rfl, hl, rfl, rfl⟩)
  case c_sha | c_shx | c_shy | c_tas =>
    rintro m l w k ⟨u, hl⟩ -
    exact .inr (.inl ⟨m, l, u, w, .inl rfl, hl, rfl, rfl⟩)
  case c_asl | c_lsr | c_rol | c_ror | c_inc | c_dec | c_slo | c_rla | c_sre | c_dcp =>
    rintro m l b k ⟨u, v, hl, -⟩
    exact .inr (.inl ⟨m, l, u, _, .inr rfl, hl, rfl, rfl⟩)
  case c_rra | c_isc =>
    rintro m l b q k ⟨u, v, hl, -⟩ -
    exact .inr (.inl ⟨m, l, u, _, .inr rfl, hl, rfl, rfl⟩)
  case c_pha | c_php | c_jsr | c_brk =>
    intros
    exact .inr (.inr rfl)
  all_goals
    intros
    exact .inl ⟨rfl, rfl⟩

theorem peek_congr (h : t.mem = s.mem) (a : Addr) : t.peek a = s.peek a := by
  rw [State.peek, h, State.peek]

end

/-- Settles O17: of the three cases of `exec_memory` the hypotheses leave the first. -/
theorem noStoreLeavesMemory : Obligations.NoStoreLeavesMemory := by
  intro i s t hno hpush h
  obtain ⟨hmem, hlog⟩ | ⟨m, -, -, -, hstores, -⟩ | hpushes := exec_memory h
  · exact ⟨hmem, hlog, peek_congr hmem⟩
  · exact absurd hstores (not_or.mpr (hno m))
  · exact absurd (List.contains_iff_mem.mp hpushes) hpush

section
variable {s : State}

/-- Two cells written: every other looks as before. -/
theorem State.peek_wrote_wrote {a b k : Addr} (v w : Byte) (h : k ∉ [a, b]) :
    ((s.wrote a v).wrote b w).peek k = s.peek k := by
  simp only [List.mem_cons, List.not_mem_nil, or_false, not_or] at h
  obtain ⟨ha, hb⟩ := h
  rw [State.peek_wrote_other w hb, State.peek_wrote_other v ha]

theorem State.peek_wrote_wrote_wrote {a b c k : Addr} (u v w : Byte) (h : k ∉ [a, b, c]) :
    (((s.wrote a u).wrote b v).wrote c w).peek k = s.peek k := by
  simp only [List.mem_cons, List.not_mem_nil, or_false, not_or] at h
  obtain ⟨ha, hb, hc⟩ := h
  rw [State.peek_wrote_other w hc, State.peek_wrote_other v hb, State.peek_wrote_other u ha]

end

/-- The stack cells a pushing operation writes, from the S it starts with. -/
def pushedCells (op : Operation) (sp : Byte) : List Addr :=
  match op with
  | .pha | .php => [stackAddr sp]
  | .jsr => [stackAddr sp, stackAddr (sp - 1)]
  | .brk => [stackAddr sp, stackAddr (sp - 1), stackAddr (sp - 2)]
  | _ => []

/-- A pushing operation changes its stack cells only. -/
theorem exec_pushes {i : Instr} {s t : State} (h : exec i s = .next t) :
    pushes i.operation = true → ∀ a ∉ pushedCells i.operation s.sp, t.peek a = s.peek a := by
  apply exec_cases (motive := fun f t => pushes f.operation = true → ∀ a ∉ pushedCells f.operation s.sp, t.peek a = s.peek a)
    (h := h)
  case c_pha | c_php =>
    intro _ _ a ha
    exact State.peek_wrote_other _ (List.ne_of_not_mem_cons ha)
  case c_jsr =>
    intro _ _ _ _ a ha
    exact State.peek_wrote_wrote _ _ ha
  case c_brk =>
    intro _ _ _ _ _ _ a ha
    exact State.peek_wrote_wrote_wrote _ _ _ ha
  all_goals
    intros
    contradiction

/-- The operand an instruction stores to is one only. -/
theorem Stores.unique {f : Form} {m m' : MemMode} (h : Stores f m) (h' : Stores f m') : m = m' := by
  obtain h | h := h <;> obtain h' | h' := h' <;> cases h.symm.trans h' <;> rfl

/-- The operations that push store to no operand. -/
theorem not_stores_of_pushes {i : Instr} {m : MemMode} (hp : pushes i.operation = true) : ¬ Stores i.form m := by
  cases i
  case pha | php | brk | jsr => rintro (h | h) <;> exact nomatch h
  all_goals exact absurd hp Bool.false_ne_true

/-- Settles O18: the byte of a store is at the address its operand has in the starting state (`exec_memory`); of a push the
cells are those of `exec_pushes`. -/
theorem storesChangeOnlyTheirByte : Obligations.StoresChangeOnlyTheirByte := by
  intro i s t h
  have hpush := exec_pushes h
  refine ⟨fun m l s₁ hstores hl a ha => ?store, fun hop a ha => ?one, fun hop a ha => ?two, fun hop a ha => ?three⟩
  case store =>
    obtain ⟨hmem, -⟩ | ⟨m', l', u, v, hstores', hl', hmem, -⟩ | hpushes := exec_memory h
    · exact peek_congr hmem a
    · obtain rfl : m' = m := hstores'.unique hstores
      obtain ⟨rfl, -⟩ : l' = l ∧ u = s₁ := by simpa only [hl', Host.Outcome.next.injEq, Prod.mk.injEq] using hl
      rw [peek_congr hmem, State.peek_wrote_other v ha]
    · exact absurd hstores (not_stores_of_pushes hpushes)
  case one =>
    simp only [List.mem_cons, List.not_mem_nil, or_false] at hop
    obtain hop | hop := hop
    all_goals
      rw [hop] at hpush
      exact hpush rfl a fun hmem => ha (List.mem_singleton.mp hmem)
  case two =>
    rw [hop] at hpush
    exact hpush rfl a ha
  case three =>
    rw [hop] at hpush
    exact hpush rfl a ha

end Sys2Proof.Machine
end

