-- ==== Sys2Proof/Proofs/StepCases.lean ====
section
/-!
PROOFS. What a step is, by the event that is due (rules R302 to R305, R314), and when each event is (O48); the sampling of the inputs
(O60).
-/

namespace Sys2Proof.Machine

section
variable {s : State}

/-! ## The step, by the event -/

theorem step_of_reset (h : s.sampleInputs.due = .reset) : step s = s.sampleInputs.takeReset := by
  simp only [step, h]

theorem step_of_stuck (h : s.sampleInputs.due = .stuck) : step s = .fault .jammed := by
  simp only [step, h]

theorem step_of_nmi (h : s.sampleInputs.due = .nmi) : step s = s.sampleInputs.takeNmi := by
  simp only [step, h]

theorem step_of_irq (h : s.sampleInputs.due = .irq) : step s = s.sampleInputs.takeIrq := by
  simp only [step, h]

theorem step_of_instruction (h : s.sampleInputs.due = .instruction) :
    step s = andThen s.sampleInputs.fetch fun f => andThen (exec f.1 f.2) fun t => .next (t.addCycles (cyclesOf f.1 f.2)) := by
  simp only [step, h]

/-! ## The event, by the conditions -/

theorem due_reset (hreset : s.resetPending = true) : s.due = .reset := by
  rw [State.due, if_pos hreset]

theorem due_stuck (hreset : s.resetPending = false) (hjam : s.jammed = true) : s.due = .stuck := by
  rw [State.due, if_neg (ne_true_of_eq_false hreset), if_pos hjam]

/-- With neither RESET nor a jam, the interrupts decide. -/
theorem due_of_running (hreset : s.resetPending = false) (hjam : s.jammed = false) :
    s.due = if s.nmiPending then .nmi else if s.irqLine && !s.i then .irq else .instruction := by
  rw [State.due, if_neg (ne_true_of_eq_false hreset), if_neg (ne_true_of_eq_false hjam)]

theorem due_nmi (hreset : s.resetPending = false) (hjam : s.jammed = false) (hnmi : s.nmiPending = true) :
    s.due = .nmi := by
  rw [due_of_running hreset hjam, if_pos hnmi]

theorem due_irq (hreset : s.resetPending = false) (hjam : s.jammed = false) (hnmi : s.nmiPending = false)
    (hline : s.irqLine = true) (hi : s.i = false) : s.due = .irq := by
  rw [due_of_running hreset hjam, if_neg (ne_true_of_eq_false hnmi), hline, hi]
  rfl

/-- I = 1 masks an asserted IRQ line. -/
theorem due_instruction (hreset : s.resetPending = false) (hjam : s.jammed = false) (hnmi : s.nmiPending = false)
    (hmasked : s.irqLine = false ∨ s.i = true) : s.due = .instruction := by
  rw [due_of_running hreset hjam, if_neg (ne_true_of_eq_false hnmi)]
  obtain hline | hi := hmasked
  · rw [hline]
    rfl
  · rw [hi, Bool.not_true, Bool.and_false]
    rfl

end

/-- Settles O48: the event due by its conditions, the step by the event. -/
theorem eventPriority : Obligations.EventPriority := by
  intro s
  exact ⟨fun hreset => step_of_reset (due_reset hreset), fun hreset hjam => step_of_stuck (due_stuck hreset hjam),
    fun hreset hjam hnmi => step_of_nmi (due_nmi hreset hjam hnmi),
    fun hreset hjam hnmi hline hi => step_of_irq (due_irq hreset hjam hnmi hline hi),
    fun hreset hjam hnmi hmasked => step_of_instruction (due_instruction hreset hjam hnmi hmasked)⟩

/-! ## Sampling -/

theorem sampleInputs_of_nil {s : State} (h : s.inputs = []) : s.sampleInputs = s := by
  rw [State.sampleInputs, h]

theorem sampleInputs_of_cons {s : State} {b : BoundaryInput} {rest : List BoundaryInput} (h : s.inputs = b :: rest) :
    s.sampleInputs = { s with irqLine := b.irqLine, nmiPending := s.nmiPending || b.nmiEdge,
                              resetPending := s.resetPending || b.reset, inputs := rest } := by
  rw [State.sampleInputs, h]

/-- Settles O60. -/
theorem inputsAreSampledAtTheBoundary : Obligations.InputsAreSampledAtTheBoundary :=
  fun _ _ _ => ⟨sampleInputs_of_nil, sampleInputs_of_cons⟩

end Sys2Proof.Machine
end

