-- ==== Sys2Proof/Proofs/StepInvariant.lean ====
section
/-!
PROOFS. What every step keeps (O56, O57) and what reset starts with (O58). The relation `State.Keeps` gathers the three: the
parameters, the bytes of the cells that are not RAM, and the invariant. A state keeps it when it leaves parameters, memory and
device log alone, and when it writes one byte; every part of a step is one or the other.
-/

namespace Sys2Proof.Machine

/-- The state `t` has the parameters of `s` and its bytes outside RAM, and the invariant if `s` has it. -/
structure State.Keeps (s t : State) : Prop where
  params : t.params = s.params
  peek : ∀ a : Addr, s.kindAt a ≠ .ram → t.peek a = s.peek a
  inv : s.Inv = true → t.Inv = true

section
variable {s t u : State}

theorem kindAt_congr (h : t.params = s.params) (a : Addr) : t.kindAt a = s.kindAt a := by
  rw [State.kindAt, h, State.kindAt]

/-- The invariant looks at memory, device log and parameters only. -/
theorem inv_congr (hparams : t.params = s.params) (hmem : t.mem = s.mem) (hlog : t.deviceLog = s.deviceLog) :
    t.Inv = s.Inv := by
  rw [State.Inv, State.logWf, hparams, hmem, hlog, State.Inv, State.logWf]

theorem State.Keeps.of_same (hparams : t.params = s.params) (hmem : t.mem = s.mem) (hlog : t.deviceLog = s.deviceLog) :
    s.Keeps t where
  params := hparams
  peek a _ := peek_congr hmem a
  inv h := (inv_congr hparams hmem hlog).trans h

theorem State.Keeps.trans (h₁ : s.Keeps t) (h₂ : t.Keeps u) : s.Keeps u where
  params := h₂.params.trans h₁.params
  peek a ha := (h₂.peek a (by rwa [kindAt_congr h₁.params])).trans (h₁.peek a ha)
  inv h := h₂.inv (h₁.inv h)

theorem State.Keeps.then_same (h : s.Keeps t) (hparams : u.params = t.params) (hmem : u.mem = t.mem)
    (hlog : u.deviceLog = t.deviceLog) : s.Keeps u :=
  h.trans (.of_same hparams hmem hlog)

theorem State.Keeps.after_same (h : t.Keeps u) (hparams : t.params = s.params) (hmem : t.mem = s.mem)
    (hlog : t.deviceLog = s.deviceLog) : s.Keeps u :=
  .trans (.of_same hparams hmem hlog) h

theorem State.Keeps.of_reads (h : s.Reads t) : s.Keeps t := by
  rw [h]
  exact .of_same rfl rfl rfl

/-! ## One byte written -/

theorem State.logWf_iff :
    s.logWf = true ↔ ∀ cell ∈ s.deviceLog, cell.1 < 65536 ∧ kindIn s.params.memMap cell.1 = .device false := by
  simp only [State.logWf, List.all_eq_true, Bool.and_eq_true, decide_eq_true_eq]

/-- A write keeps the canonical form of memory. -/
theorem wf_wrote (a : Addr) (v : Byte) (h : Memory.wf s.mem = true) : Memory.wf (s.wrote a v).mem = true := by
  simp only [State.wrote]
  split
  · exact Memory.wf_set a v h
  · exact h

/-- A write tells the host of device cells only. -/
theorem logWf_wrote (a : Addr) (v : Byte) (h : s.logWf = true) : (s.wrote a v).logWf = true := by
  rw [State.logWf_iff] at h ⊢
  simp only [State.wrote]
  split
  · next hk =>
    have hnew : a.toNat < 65536 ∧ kindIn s.params.memMap a.toNat = .device false := ⟨a.isLt, hk⟩
    exact List.forall_mem_append.mpr ⟨h, List.forall_mem_singleton.mpr hnew⟩
  · exact h

theorem State.Keeps.wrote (a : Addr) (v : Byte) : s.Keeps (s.wrote a v) where
  params := rfl
  peek k hk := by
    by_cases hka : k = a
    · subst hka
      exact State.peek_wrote_of_ne_ram v hk k
    · exact State.peek_wrote_other v hka
  inv h := by
    simp only [State.Inv, Bool.and_eq_true] at h ⊢
    obtain ⟨hwf, hlog⟩ := h
    exact ⟨wf_wrote a v hwf, logWf_wrote a v hlog⟩

/-! ## The parts of a step -/

theorem State.Keeps.of_push {b : Byte} (h : s.push b = .next t) : s.Keeps t := by
  obtain ⟨-, rfl⟩ := State.push_next h
  exact (State.Keeps.wrote _ b).then_same rfl rfl rfl

theorem State.Keeps.of_takeException {vector ret : Addr} {b : Bool} (h : s.takeException vector ret b = .next t) :
    s.Keeps t := by
  obtain ⟨s₁, s₂, s₃, w, s₄, h₁, h₂, h₃, hvector, rfl⟩ := State.takeException_next h
  have hpushed : s.Keeps s₃ := ((State.Keeps.of_push h₁).trans (.of_push h₂)).trans (.of_push h₃)
  have hread : s₃.Keeps s₄ := (State.Keeps.of_reads (State.readPair_reads hvector)).after_same rfl rfl rfl
  exact (hpushed.trans hread).then_same rfl rfl rfl

theorem State.Keeps.of_takeReset (h : s.takeReset = .next t) : s.Keeps t := by
  obtain ⟨w, u, hvector, rfl⟩ := State.takeReset_next h
  have hread : s.Keeps u := (State.Keeps.of_reads (State.readPair_reads hvector)).after_same rfl rfl rfl
  exact hread.then_same rfl rfl rfl

theorem State.Keeps.of_takeNmi (h : s.takeNmi = .next t) : s.Keeps t := by
  obtain ⟨u, hu, h⟩ := andThen_eq_next.mp h
  cases h
  have hentry : s.Keeps u := (State.Keeps.of_takeException hu).after_same rfl rfl rfl
  exact hentry.then_same rfl rfl rfl

theorem State.Keeps.of_takeIrq (h : s.takeIrq = .next t) : s.Keeps t := by
  obtain ⟨u, hu, h⟩ := andThen_eq_next.mp h
  cases h
  exact (State.Keeps.of_takeException hu).then_same rfl rfl rfl

theorem State.fetchByte_reads {needed : Bool} {a : Addr} {b : Byte} (h : s.fetchByte needed a = .next (b, t)) :
    s.Reads t := by
  unfold State.fetchByte at h
  split at h
  · exact State.read_reads h
  · cases h
    exact .refl _

theorem State.fetch_reads {i : Instr} (h : s.fetch = .next (i, t)) : s.Reads t := by
  obtain ⟨⟨op, s₁⟩, h₁, h⟩ := andThen_eq_next.mp h
  obtain ⟨⟨b₁, s₂⟩, h₂, h⟩ := andThen_eq_next.mp h
  obtain ⟨⟨b₂, s₃⟩, h₃, h⟩ := andThen_eq_next.mp h
  cases h
  exact ((State.read_reads h₁).trans (State.fetchByte_reads h₂)).trans (State.fetchByte_reads h₃)

theorem State.sampleInputs_keeps (s : State) : s.Keeps s.sampleInputs := by
  unfold State.sampleInputs
  split
  · exact .of_same rfl rfl rfl
  · exact .of_same rfl rfl rfl

/-- An instruction writes no byte, one byte, or the bytes it pushes. -/
theorem State.Keeps.of_exec {i : Instr} (h : exec i s = .next t) : s.Keeps t := by
  apply exec_cases (motive := fun _ t => s.Keeps t) (h := h)
  case c_sta | c_stx | c_sty | c_sax =>
    intro m l k _ _
    exact (State.Keeps.wrote l.ea _).then_same rfl rfl rfl
  case c_sha | c_shx | c_shy | c_tas =>
    intro m l w k _ _
    exact (State.Keeps.wrote l.ea w).then_same rfl rfl rfl
  case c_asl | c_lsr | c_rol | c_ror | c_inc | c_dec | c_slo | c_rla | c_sre | c_dcp =>
    intro m l b k _
    exact (State.Keeps.wrote l.ea _).then_same rfl rfl rfl
  case c_rra | c_isc =>
    intro m l b q k _ _
    exact (State.Keeps.wrote l.ea _).then_same rfl rfl rfl
  case c_pha | c_php =>
    intro _
    exact (State.Keeps.wrote (stackAddr s.sp) _).then_same rfl rfl rfl
  case c_jsr =>
    intros
    exact ((State.Keeps.wrote (stackAddr s.sp) _).trans (.wrote (stackAddr (s.sp - 1)) _)).then_same rfl rfl rfl
  case c_brk =>
    intros
    exact (((State.Keeps.wrote (stackAddr s.sp) _).trans (.wrote (stackAddr (s.sp - 1)) _)).trans
      (.wrote (stackAddr (s.sp - 2)) _)).then_same rfl rfl rfl
  all_goals
    intros
    exact .of_same rfl rfl rfl

/-- A step samples the inputs, then does what is due: each keeps what `State.Keeps` says. -/
theorem State.Keeps.of_step (h : step s = .next t) : s.Keeps t := by
  refine s.sampleInputs_keeps.trans ?_
  cases hdue : s.sampleInputs.due with
  | reset => exact .of_takeReset (step_of_reset hdue ▸ h)
  | stuck => exact nomatch (step_of_stuck hdue).symm.trans h
  | nmi => exact .of_takeNmi (step_of_nmi hdue ▸ h)
  | irq => exact .of_takeIrq (step_of_irq hdue ▸ h)
  | instruction =>
    rw [step_of_instruction hdue] at h
    obtain ⟨⟨i, u⟩, hfetch, h⟩ := andThen_eq_next.mp h
    obtain ⟨v, hexec, h⟩ := andThen_eq_next.mp h
    cases h
    exact ((State.Keeps.of_reads (State.fetch_reads hfetch)).trans (.of_exec hexec)).then_same rfl rfl rfl

end

/-- Settles O56. -/
theorem romAndParametersNeverChange : Obligations.RomAndParametersNeverChange := by
  intro s s' h
  have hkeeps := State.Keeps.of_step h
  exact ⟨hkeeps.params, hkeeps.peek⟩

/-- Settles O57. -/
theorem everyStepKeepsTheInvariant : Obligations.EveryStepKeepsTheInvariant := by
  intro s s' hinv h
  exact (State.Keeps.of_step h).inv hinv

/-- Settles O58: an empty memory is canonical and an empty log tells the host nothing. -/
theorem invariantAtReset : Obligations.InvariantAtReset := by
  have hlog : State.reset.logWf = true := State.logWf_iff.mpr nofun
  have hinv : State.reset.Inv = true := by rw [State.Inv, Memory.wf_reset, hlog, Bool.and_true]
  exact ⟨hinv, rfl, rfl, rfl, rfl, rfl⟩

end Sys2Proof.Machine
end

