-- ==== Sys2Proof/Proofs/Events.lean ====
section
/-!
PROOFS. The events at a boundary: the interrupt entries (rules R302, R303, R306: O49), RESET (rules R28, R340: O50), and the jammed
machine (rule R240: O51).
-/

namespace Sys2Proof.Machine

open Sys2Proof.Statements

/-! ## NMI and IRQ -/

section
variable {s s₁ s₂ : State} {l h : Byte}

/-- A read does not look at the NMI latch. -/
theorem State.read_clearNmi {a : Addr} (hr : s.read a = .next (l, s₁)) : s.clearNmi.read a = .next (l, s₁.clearNmi) := by
  rw [State.read_congr (s := s) (t := s.clearNmi) rfl rfl rfl, hr, andThen_next, State.read_reads hr]
  rfl

/-- NMI entry, computed. -/
theorem State.takeNmi_eq (hw : stackWritable s 3) (hl : (framePushed s s.pc false).read nmiVector = .next (l, s₁))
    (hh : s₁.read (nmiVector + 1) = .next (h, s₂)) :
    s.takeNmi = .next { framePushed s s.pc false with draws := s₂.draws, i := true, nmiPending := false,
                                                      pc := word h l, cycles := s.cycles + 7 } := by
  have hentry := State.takeException_eq (s := s.clearNmi) (ret := s.pc) (b := false) hw (State.read_clearNmi hl)
    (State.read_clearNmi hh)
  rw [State.takeNmi, hentry, andThen_next]
  rfl

/-- IRQ entry, computed. -/
theorem State.takeIrq_eq (hw : stackWritable s 3) (hl : (framePushed s s.pc false).read irqVector = .next (l, s₁))
    (hh : s₁.read (irqVector + 1) = .next (h, s₂)) :
    s.takeIrq = .next { framePushed s s.pc false with draws := s₂.draws, i := true, pc := word h l,
                                                      cycles := s.cycles + 7 } := by
  rw [State.takeIrq, State.takeException_eq hw hl hh, andThen_next]
  rfl

end

/-- Settles O49: the event by its conditions, the entry by `State.takeNmi_eq` and `State.takeIrq_eq`. -/
theorem interruptEntry : Obligations.InterruptEntry := by
  intro s s₁ s₂ l h b t hreset hjam hw
  have hnmiNext : nmiVector + 1 = 0xFFFB := by decide
  have hirqNext : irqVector + 1 = 0xFFFF := by decide
  refine ⟨fun hnmi hl hh => ?nmi, fun hnmi hline hi hl hh => ?irq, bit_pByte_b false b, bit_pByte_unused false b,
    framePushed_sp b b.pc false⟩
  case nmi =>
    rw [step_of_nmi (due_nmi hreset hjam hnmi)]
    exact State.takeNmi_eq hw hl (hnmiNext ▸ hh)
  case irq =>
    rw [step_of_irq (due_irq hreset hjam hnmi hline hi)]
    exact State.takeIrq_eq hw hl (hirqNext ▸ hh)

/-! ## What sampling leaves alone -/

section
variable (s : State)

theorem sampleInputs_mem : s.sampleInputs.mem = s.mem := by
  unfold State.sampleInputs
  split <;> rfl

theorem sampleInputs_params : s.sampleInputs.params = s.params := s.sampleInputs_keeps.params

theorem sampleInputs_deviceLog : s.sampleInputs.deviceLog = s.deviceLog := by
  unfold State.sampleInputs
  split <;> rfl

theorem sampleInputs_jammed : s.sampleInputs.jammed = s.jammed := by
  unfold State.sampleInputs
  split <;> rfl

end

/-! ## RESET -/

section
variable {s t : State} {a : Addr} {b : Byte}

theorem State.read_of_holds (h : holds s a b) : s.read a = .next (b, s) := by
  obtain ⟨hk, hp⟩ := h
  exact State.read_of_holding hk hp

/-- What a cell holds is a matter of the memory map and the memory. -/
theorem holds_congr (hparams : t.params = s.params) (hmem : t.mem = s.mem) (h : holds s a b) : holds t a b := by
  rwa [holds, kindAt_congr hparams, peek_congr hmem, ← holds]

/-- The state in which RESET reads its vector. -/
def resetting (s : State) : State :=
  ((s.unspecify (Config.afterReset s.draws)).countDraw.clearConditions).setI true

/-- RESET, computed: nothing is written. -/
theorem State.takeReset_eq {l h : Byte} (hl : holds s 0xFFFC l) (hh : holds s 0xFFFD h) :
    s.takeReset = .next (((resetting s).setPc (word h l)).addCycles 7) := by
  have hnext : resetVector + 1 = 0xFFFD := by decide
  have hlow : (resetting s).read resetVector = .next (l, resetting s) :=
    State.read_of_holds (holds_congr (s := s) rfl rfl hl)
  have hhigh : (resetting s).read (resetVector + 1) = .next (h, resetting s) := by
    rw [hnext]
    exact State.read_of_holds (holds_congr (s := s) rfl rfl hh)
  rw [State.takeReset, ← resetting, State.read16_eq hlow hhigh, andThen_next]

/-- After a RESET the machine is not jammed, wherever its vector lay. -/
theorem takeReset_jammed (h : s.takeReset = .next t) : t.jammed = false := by
  obtain ⟨w, u, hvector, rfl⟩ := State.takeReset_next h
  have hreads := State.readPair_reads hvector
  rw [State.addCycles_jammed, State.setPc_jammed, hreads]
  rfl

end

/-- Settles O50 by `State.takeReset_eq`. -/
theorem resetEntry : Obligations.ResetEntry := by
  intro s l h b hreset hl hh
  refine ⟨((resetting b).setPc (word h l)).addCycles 7, ?step, rfl, rfl, rfl, rfl, rfl, sampleInputs_mem s,
    sampleInputs_params s, sampleInputs_deviceLog s⟩
  case step => rw [step_of_reset (due_reset hreset), State.takeReset_eq hl hh]

/-! ## JAM -/

/-- The operation of an instruction stands in the cell of its opcode byte. -/
theorem operation_eq_cell (i : Instr) : i.operation = (cell i.opcode).1 :=
  congrArg Prod.fst (row_eq_cell i)

/-- The twelve JAM cells of the matrix. -/
theorem cell_eq_jam_iff (op : Byte) : (cell op).1 = .jam ↔ op ∈ jams := by
  obtain ⟨n, hn, rfl⟩ := byte_num op
  interval_cases n <;> decide

theorem exec_of_jam {i : Instr} (s : State) (h : i.operation = .jam) : exec i s = jam s := by
  cases i
  case jam02 | jam12 | jam22 | jam32 | jam42 | jam52 | jam62 | jam72 | jam92 | jamB2 | jamD2 | jamF2 => rfl
  all_goals exact nomatch h

/-- Settles O51: the bytes by the matrix, the effect by `jam`, the stuck step and its end by the event due. -/
theorem jamSticksUntilReset : Obligations.JamSticksUntilReset := by
  refine ⟨fun i => ?bytes, fun i s hop => exec_of_jam s hop, fun s hjam hreset => ?stuck, fun s t hreset h => ?ended⟩
  case bytes => rw [operation_eq_cell, cell_eq_jam_iff]
  case stuck => exact step_of_stuck (due_stuck hreset ((sampleInputs_jammed s).trans hjam))
  case ended =>
    rw [step_of_reset (due_reset hreset)] at h
    exact takeReset_jammed h

end Sys2Proof.Machine
end

