-- ==== Sys2Proof/Proofs/MatrixOnly.lean ====
section
/-!
PROOFS. The opcodes only the matrix names (rules R241 to R245): the illegal NOPs, SBC `$EB`, ANE and LAX `$AB` (O52).
-/

namespace Sys2Proof.Machine

open Sys2Proof.Statements

/-- The 27 illegal NOP cells of the matrix. -/
theorem cell_eq_illegalNop_iff (op : Byte) : (cell op).1 = .illegalNop ↔ op ∈ illegalNops.map Prod.fst := by
  obtain ⟨n, hn, rfl⟩ := byte_num op
  interval_cases n <;> decide

/-- An illegal NOP has no operand byte, an immediate byte or a memory operand, and does what G15 gives for that form. -/
theorem illegalNop_forms {i : Instr} (h : i.operation = .illegalNop) :
    (i.operand = .implied ∧ ∀ s, exec i s = illegalNop 1 s) ∨
    (∃ b, i.operand = .read (.immediate b) ∧ ∀ s, exec i s = illegalNop 2 s) ∨
    (∃ m, i.operand = .read (.memory m) ∧ ∀ s, exec i s = illegalNopAt m s) := by
  cases i
  case nop1A | nop3A | nop5A | nop7A | nopDA | nopFA => exact .inl ⟨rfl, fun _ => rfl⟩
  case nop80 | nop82 | nop89 | nopC2 | nopE2 => exact .inr (.inl ⟨_, rfl, fun _ => rfl⟩)
  case nop04 | nop0C | nop14 | nop1C | nop34 | nop3C | nop44 | nop54 | nop5C | nop64 | nop74 | nop7C | nopD4 | nopDC |
      nopF4 | nopFC =>
    exact .inr (.inr ⟨_, rfl, fun _ => rfl⟩)
  all_goals exact nomatch h

/-- G15's length of an illegal NOP is that of its form. -/
theorem illegalNop_length {i : Instr} (h : i.operation = .illegalNop) : (i.opcode, i.length) ∈ illegalNops := by
  cases i
  case nop1A | nop3A | nop5A | nop7A | nopDA | nopFA | nop80 | nop82 | nop89 | nopC2 | nopE2 | nop04 | nop0C | nop14 | nop1C |
      nop34 | nop3C | nop44 | nop54 | nop5C | nop64 | nop74 | nop7C | nopD4 | nopDC | nopF4 | nopFC =>
    exact List.contains_iff_mem.mp rfl
  all_goals exact nomatch h

section
variable {s s₁ : State} {m : MemMode} {l : Located}

theorem illegalNop_admitted (len : Nat) (h : s.params.admitMatrixOnly = true) : illegalNop len s = .next (s.advance len) :=
  if_pos h

theorem illegalNop_refused (len : Nat) (h : s.params.admitMatrixOnly = false) :
    illegalNop len s = .refused .undetailedOpcode :=
  if_neg (ne_true_of_eq_false h)

theorem illegalNopAt_refused (m : MemMode) (h : s.params.admitMatrixOnly = false) :
    illegalNopAt m s = .refused .undetailedOpcode :=
  if_neg (ne_true_of_eq_false h)

/-- An illegal NOP whose operand is found asks only whether rule R45 refuses its cell. -/
theorem illegalNopAt_located (h : s.params.admitMatrixOnly = true) (hl : s.locate m = .next (l, s₁)) :
    illegalNopAt m s =
      if s.kindAt l.ea = .device true then .refused (.deviceWithReadEffects l.ea) else .next (s₁.advance m.length) := by
  rw [illegalNopAt, if_pos h, hl, andThen_next, (State.locate_reads hl).kindAt]

theorem illegalNopAt_locate_refused {why : Refusal} (h : s.params.admitMatrixOnly = true) (hl : s.locate m = .refused why) :
    illegalNopAt m s = .refused why := by
  rw [illegalNopAt, if_pos h, hl, andThen_refused]

/-- Only the modes that fetch a pointer take a free value to find an address. -/
theorem locate_state_of_direct (hm : m.mode ≠ .indirectX ∧ m.mode ≠ .indirectY) (hl : s.locate m = .next (l, s₁)) :
    s₁ = s := by
  obtain ⟨hx, hy⟩ := hm
  cases m with
  | zeroPage | zeroPageX | zeroPageY | absolute => cases hl; rfl
  | absoluteX | absoluteY =>
    simp only [State.locate, State.indexed] at hl
    split at hl
    · exact nomatch hl
    · cases hl; rfl
  | indirectX => exact absurd rfl hx
  | indirectY => exact absurd rfl hy

/-- No illegal NOP fetches a pointer. -/
theorem illegalNop_direct {i : Instr} (hop : i.operation = .illegalNop) (ho : i.operand = .read (.memory m)) :
    m.mode ≠ .indirectX ∧ m.mode ≠ .indirectY := by
  have hmode : m.mode ∈ Operation.modes .illegalNop := by
    have h := i.mode_mem_modes
    rwa [hop, ho] at h
  constructor
  · intro h; rw [h] at hmode; exact absurd hmode (by decide)
  · intro h; rw [h] at hmode; exact absurd hmode (by decide)

/-- Without the parameter an illegal NOP is refused. -/
theorem exec_illegalNop_refused {i : Instr} (hop : i.operation = .illegalNop) (h : s.params.admitMatrixOnly = false) :
    exec i s = .refused .undetailedOpcode := by
  obtain ⟨-, hexec⟩ | ⟨b, -, hexec⟩ | ⟨m, -, hexec⟩ := illegalNop_forms hop
  · rw [hexec, illegalNop_refused 1 h]
  · rw [hexec, illegalNop_refused 2 h]
  · rw [hexec, illegalNopAt_refused m h]

end

/-- Settles O52: the cells by the matrix, the effects by the three forms of an illegal NOP. -/
theorem matrixOnlyTreatment : Obligations.MatrixOnlyTreatment := by
  refine ⟨fun i => ?bytes, fun i s hop => ⟨exec_illegalNop_refused hop, fun hadmit => ?admitted⟩, fun m s => ?sbcEB, rfl, rfl,
    fun s => ⟨rfl, rfl⟩⟩
  case bytes => rw [operation_eq_cell, cell_eq_illegalNop_iff]
  case sbcEB => exact ⟨rfl, rfl, fun h => if_neg (ne_true_of_eq_false h), fun h => if_pos h⟩
  case admitted =>
    refine ⟨i.length, illegalNop_length hop, ?_⟩
    obtain ⟨ho, hexec⟩ | ⟨b, ho, hexec⟩ | ⟨m, ho, hexec⟩ := illegalNop_forms hop
    · refine ⟨fun _ => ?_, fun m hm => nomatch ho.symm.trans hm⟩
      rw [hexec, illegalNop_admitted 1 hadmit, Instr.length, ho]
      rfl
    · refine ⟨fun _ => ?_, fun m hm => nomatch ho.symm.trans hm⟩
      rw [hexec, illegalNop_admitted 2 hadmit, Instr.length, ho]
      rfl
    · refine ⟨fun hno => absurd ho (hno m), fun m' hm' => ?_⟩
      cases ho.symm.trans hm'
      refine ⟨fun l s₁ hl => ⟨fun hk => ?found, fun hk => ?device⟩, fun why hl => ?uncarried⟩
      case found =>
        obtain rfl := locate_state_of_direct (illegalNop_direct hop ho) hl
        rw [hexec, illegalNopAt_located hadmit hl, if_neg hk, Instr.length, ho]
        rfl
      case device => rw [hexec, illegalNopAt_located hadmit hl, if_pos hk]
      case uncarried => rw [hexec, illegalNopAt_locate_refused hadmit hl]

end Sys2Proof.Machine
end

