-- ==== Sys2Proof/Proofs/Fetch.lean ====
section
/-!
PROOFS. A step where an instruction is due (rules R32, R42, R52): the fetch takes the instruction's bytes from the cells at PC and
after it, and the step is the meaning of that instruction with its cycles counted (O6). Where the parameter does not allow an
illegal NOP or SBC `$EB`, the fetch takes the opcode byte alone; both instructions are then refused, whatever their operand bytes.
-/

namespace Sys2Proof.Machine

open Sys2Proof.Statements

section
variable {s : State}

/-- The bytes of a list lie in the cells from an address on. -/
def Placed (s : State) (a : Addr) (bytes : List Byte) : Prop :=
  ∀ (k : Nat) (v : Byte), bytes[k]? = some v → holds s (a + BitVec.ofNat 16 k) v

/-- A byte is fetched if it is one of those placed; one past them is not asked for. -/
theorem fetchByte_of_placed {a : Addr} {bytes : List Byte} (h : Placed s a bytes) (k : Nat) :
    s.fetchByte (decide (k < bytes.length)) (a + BitVec.ofNat 16 k) = .next (bytes.getD k 0, s) := by
  by_cases hk : k < bytes.length
  · have hholds := h k bytes[k] (List.getElem?_eq_getElem hk)
    rw [State.fetchByte, decide_eq_true hk, if_pos rfl, State.read_of_holds hholds, List.getD_eq_getElem _ _ hk]
  · rw [State.fetchByte, decide_eq_false hk, if_neg Bool.false_ne_true, List.getD_eq_default _ _ (Nat.le_of_not_lt hk)]

/-- The opcode byte of an encoding lies at its address. -/
theorem read_opcode_of_placed {a : Addr} {i : Instr} (h : Placed s a (encode i)) : s.read a = .next (i.opcode, s) := by
  have hholds := h 0 i.opcode rfl
  rw [BitVec.add_zero] at hholds
  exact State.read_of_holds hholds

/-- An opcode the parameter leaves out is fetched alone, and the instruction of its cell is refused. -/
theorem fetchLength_cases (p : Params) (i : Instr) :
    fetchLength p i.opcode = i.length ∨
      fetchLength p i.opcode = 1 ∧ p.admitMatrixOnly = false ∧ i.operation ∈ [.illegalNop, .sbcEB] := by
  have hop : (instrOf i.opcode 0 0).operation = i.operation := by rw [operation_instrOf, operation_eq_cell]
  unfold fetchLength
  split
  · next h =>
    simp only [admittedByParameter, hop, Bool.and_eq_true, Bool.or_eq_true, decide_eq_true_eq, Bool.not_eq_true'] at h
    obtain ⟨hop, hadmit⟩ := h
    exact .inr ⟨rfl, hadmit, by simpa only [List.mem_cons, List.not_mem_nil, or_false] using hop⟩
  · exact .inl (opcodeLength_opcode i)

theorem exec_sbcEB_refused {i : Instr} (hop : i.operation = .sbcEB) (h : s.params.admitMatrixOnly = false) :
    exec i s = .refused .undetailedOpcode := by
  cases i
  case sbcEB => exact if_neg (ne_true_of_eq_false h)
  all_goals exact nomatch hop

theorem exec_unadmitted {i : Instr} (hop : i.operation ∈ [.illegalNop, .sbcEB]) (h : s.params.admitMatrixOnly = false) :
    exec i s = .refused .undetailedOpcode := by
  simp only [List.mem_cons, List.not_mem_nil, or_false] at hop
  obtain hop | hop := hop
  · exact exec_illegalNop_refused hop h
  · exact exec_sbcEB_refused hop h

/-- A fetch whose reads change nothing answers the cell of its opcode byte. -/
theorem fetch_eq {op b₁ b₂ : Byte} (hop : s.read s.pc = .next (op, s))
    (h₁ : s.fetchByte (decide (1 < fetchLength s.params op)) (s.pc + 1) = .next (b₁, s))
    (h₂ : s.fetchByte (decide (2 < fetchLength s.params op)) (s.pc + 2) = .next (b₂, s)) :
    s.fetch = .next (instrOf op b₁ b₂, s) := by
  simp only [State.fetch, hop, andThen_next, h₁, h₂]

/-- The fetch answers the placed instruction, or one that is refused as the placed one is; it changes nothing. -/
theorem fetch_of_placed {i : Instr} (h : Placed s s.pc (encode i)) :
    s.fetch = .next (i, s) ∨ ∃ j, s.fetch = .next (j, s) ∧ exec j s = .refused .undetailedOpcode ∧
      exec i s = .refused .undetailedOpcode := by
  have hopcode := read_opcode_of_placed h
  obtain hlen | ⟨hlen, hadmit, hop⟩ := fetchLength_cases s.params i
  · left
    have h₁ : s.fetchByte (decide (1 < (encode i).length)) (s.pc + 1) = .next ((encode i).getD 1 0, s) :=
      fetchByte_of_placed h 1
    have h₂ : s.fetchByte (decide (2 < (encode i).length)) (s.pc + 2) = .next ((encode i).getD 2 0, s) :=
      fetchByte_of_placed h 2
    rw [length_encode, ← hlen] at h₁ h₂
    obtain ⟨-, hrow⟩ := row_of_opcode i
    have hback := hrow []
    rw [List.append_nil] at hback
    rw [fetch_eq hopcode h₁ h₂]
    exact congrArg (fun j => Host.Outcome.next (j, s)) hback
  · right
    have hop' : (instrOf i.opcode 0 0).operation ∈ [.illegalNop, .sbcEB] := by
      rwa [operation_instrOf, ← operation_eq_cell]
    refine ⟨instrOf i.opcode 0 0, ?_, exec_unadmitted hop' hadmit, exec_unadmitted hop hadmit⟩
    exact fetch_eq hopcode (by rw [hlen]; rfl) (by rw [hlen]; rfl)

end

/-- Settles O6: the bytes are the instruction's encoding, so the fetch answers it (`fetch_of_placed`) and the step runs it. -/
theorem stepRunsTheDecodedInstruction : Obligations.StepRunsTheDecodedInstruction := by
  intro s i bytes hdue _ hdecode hplaced
  obtain ⟨hbytes, -⟩ := encodeDecodeRoundTrip bytes i [] hdecode
  rw [List.append_nil] at hbytes
  subst hbytes
  rw [step_of_instruction hdue]
  obtain hfetch | ⟨j, hfetch, hj, hi⟩ := fetch_of_placed (s := s.sampleInputs) hplaced
  · rw [hfetch]
    rfl
  · rw [hfetch, andThen_next, hj, hi, andThen_refused, andThen_refused]

end Sys2Proof.Machine
end

