-- ==== Sys2Proof/Proofs/DecimalArithmetic.lean ====
section
/-!
PROOFS. The decimal arithmetic of G7 on packed digits (O22): the correction by 6 in either digit makes the carry out of ten a carry out
of sixteen, so the result is that of the two digits added one after the other.
-/

namespace Sys2Proof.Machine

open Sys2Proof.Statements

/-- A byte given by two decimal digits. -/
theorem bcd_of_digits {b : Byte} {high low : Nat} (hb : b.toNat = 16 * high + low) (hhigh : high ≤ 9) (hlow : low ≤ 9) :
    validBcd b ∧ bcd b = 10 * high + low := by
  rw [validBcd, bcd]
  omega

/-- A digit sum from ten on, as G7 corrects it: six more, which carries out of the four bits. -/
theorem carried_nibble {n : Nat} (hten : 10 ≤ n) (htwenty : n < 20) : (n + 6) % 16 + 16 = n + 6 := by
  omega

/-- A negative digit difference, as G7 corrects it: six less, which borrows from the next digit. -/
theorem borrowed_nibble {n : Int} (hneg : n < 0) (hten : -10 ≤ n) : (n - 6) % 16 - 16 = n - 6 := by
  omega

section
variable {a m : Byte} (c : Bool)

/-- The decimal addition is that of the digits, the low one's carry into the high one's. -/
theorem decimalAddNmos_digits (ha : validBcd a) (hm : validBcd m) :
    let low := a.toNat % 16 + m.toNat % 16 + c.toNat
    let high := a.toNat / 16 + m.toNat / 16 + low / 10
    (decimalAddNmos a m c).r.toNat = 16 * (high % 10) + low % 10 ∧ ((decimalAddNmos a m c).c = true ↔ 10 ≤ high) := by
  have hc := c.toNat_lt
  obtain ⟨haHigh, haLow⟩ := ha
  obtain ⟨hmHigh, hmLow⟩ := hm
  simp only [decimalAddNmos, BitVec.toNat_ofNat, decide_eq_true_eq]
  generalize hlow : a.toNat % 16 + m.toNat % 16 + c.toNat = low
  have htwenty : low < 20 := by omega
  split
  · next hten =>
    rw [carried_nibble hten htwenty]
    split <;> omega
  · split <;> omega

/-- The decimal subtraction is that of the digits, the low one's borrow from the high one's. -/
theorem decimalSubNmos_digits (ha : validBcd a) (hm : validBcd m) :
    let low : Int := (a.toNat % 16 : Nat) - (m.toNat % 16 : Nat) + c.toNat - 1
    let high : Int := (a.toNat / 16 : Nat) - (m.toNat / 16 : Nat) + low / 10
    ((decimalSubNmos a m c).r.toNat : Int) = 16 * (high % 10) + low % 10 := by
  have hc := c.toNat_lt
  obtain ⟨haHigh, haLow⟩ := ha
  obtain ⟨hmHigh, hmLow⟩ := hm
  simp only [decimalSubNmos, BitVec.toNat_ofInt]
  generalize hlow : ((a.toNat % 16 : Nat) : Int) - (m.toNat % 16 : Nat) + c.toNat - 1 = low
  have hrange : -10 ≤ low ∧ low ≤ 9 := by omega
  obtain ⟨hten, hnine⟩ := hrange
  split
  · next hneg =>
    rw [borrowed_nibble hneg hten]
    split <;> omega
  · split <;> omega

/-- On valid digits the addition gives valid digits, the sum modulo 100 and its carry. -/
theorem decimalAddNmos_spec (ha : validBcd a) (hm : validBcd m) :
    validBcd (decimalAddNmos a m c).r ∧ bcd (decimalAddNmos a m c).r = (bcd a + bcd m + c.toNat) % 100 ∧
      ((decimalAddNmos a m c).c = true ↔ 100 ≤ bcd a + bcd m + c.toNat) := by
  obtain ⟨hsum, hcarry⟩ := decimalAddNmos_digits c ha hm
  obtain ⟨hvalid, hvalue⟩ := bcd_of_digits hsum (by omega) (by omega)
  have hc := c.toNat_lt
  obtain ⟨haHigh, haLow⟩ := ha
  obtain ⟨hmHigh, hmLow⟩ := hm
  rw [hvalue, hcarry, bcd, bcd]
  refine ⟨hvalid, ?_, ?_⟩ <;> omega

/-- On valid digits the subtraction gives valid digits and the difference modulo 100. -/
theorem decimalSubNmos_spec (ha : validBcd a) (hm : validBcd m) :
    validBcd (decimalSubNmos a m c).r ∧
      (bcd (decimalSubNmos a m c).r : Int) = ((bcd a : Int) - bcd m - (1 - c.toNat)) % 100 := by
  have hdiff := decimalSubNmos_digits c ha hm
  generalize hlow : ((a.toNat % 16 : Nat) : Int) - (m.toNat % 16 : Nat) + c.toNat - 1 = low at hdiff
  generalize hhigh : ((a.toNat / 16 : Nat) : Int) - (m.toNat / 16 : Nat) + low / 10 = high at hdiff
  have hdigits : (decimalSubNmos a m c).r.toNat = 16 * (high % 10).toNat + (low % 10).toNat := by omega
  obtain ⟨hvalid, hvalue⟩ := bcd_of_digits hdigits (by omega) (by omega)
  rw [hvalue, bcd, bcd]
  exact ⟨hvalid, by omega⟩

end

/-- Settles O22: the sums by `decimalAddNmos_spec` and `decimalSubNmos_spec`; the flags of the subtraction are the binary ones by
definition. -/
theorem nmosDecimalArithmetic : Obligations.NmosDecimalArithmetic :=
  ⟨fun _ _ c ha hm => ⟨decimalAddNmos_spec c ha hm, decimalSubNmos_spec c ha hm⟩, fun _ _ _ => rfl⟩

end Sys2Proof.Machine
end

