-- ==== Sys2Proof/Proofs/Shifts.lean ====
section
/-!
PROOFS. The shifts and rotations of rule R95 as numbers, and the rotations as moves of nine bits, operand and carry, around a ring
(O21).
-/

namespace Sys2Proof.Machine

/-! ## As numbers -/

section
variable (m : Byte) (c : Bool)

theorem bit_zero_iff : bit m 0 = true ↔ m.toNat % 2 = 1 := by
  rw [bit, BitVec.getLsbD, Nat.testBit_zero, decide_eq_true_iff]

theorem bit_seven_iff : bit m 7 = true ↔ 128 ≤ m.toNat := by
  rw [bit_seven, decide_eq_true_iff]

theorem toNat_asl : (asl m c).1.toNat = m.toNat * 2 % 256 := BitVec.toNat_ofNat _ _

theorem toNat_rol : (rol m c).1.toNat = m.toNat * 2 % 256 + c.toNat := by
  have hc := c.toNat_lt
  rw [rol, BitVec.toNat_ofNat]
  omega

theorem toNat_ror : (ror m c).1.toNat = m.toNat / 2 + c.toNat * 128 := by
  have hm := m.isLt
  have hc := c.toNat_lt
  rw [ror, BitVec.toNat_ofNat]
  omega

end

/-! ## As moves of bits -/

/-- The byte with the given bits, bit 0 first. -/
def ofBits (b₀ b₁ b₂ b₃ b₄ b₅ b₆ b₇ : Bool) : Byte := BitVec.ofBoolListLE [b₀, b₁, b₂, b₃, b₄, b₅, b₆, b₇]

section
variable (b₀ b₁ b₂ b₃ b₄ b₅ b₆ b₇ c : Bool)

theorem toNat_ofBits : (ofBits b₀ b₁ b₂ b₃ b₄ b₅ b₆ b₇).toNat = b₀.toNat + 2 * b₁.toNat + 4 * b₂.toNat + 8 * b₃.toNat +
    16 * b₄.toNat + 32 * b₅.toNat + 64 * b₆.toNat + 128 * b₇.toNat := by
  simp only [ofBits, BitVec.ofBoolListLE, BitVec.toNat_concat, List.length_nil, BitVec.toNat_zero]
  omega

/-- ROL puts the carry below bit 0 and takes bit 7 out. -/
theorem rol_ofBits : rol (ofBits b₀ b₁ b₂ b₃ b₄ b₅ b₆ b₇) c = (ofBits c b₀ b₁ b₂ b₃ b₄ b₅ b₆, b₇) := by
  have h₀ := b₀.toNat_lt
  have h₁ := b₁.toNat_lt
  have h₂ := b₂.toNat_lt
  have h₃ := b₃.toNat_lt
  have h₄ := b₄.toNat_lt
  have h₅ := b₅.toNat_lt
  have h₆ := b₆.toNat_lt
  refine Prod.ext (BitVec.eq_of_toNat_eq ?_) BitVec.getLsbD_ofBoolListLE
  rw [toNat_rol, toNat_ofBits, toNat_ofBits]
  omega

/-- ROR puts the carry above bit 7 and takes bit 0 out. -/
theorem ror_ofBits : ror (ofBits b₀ b₁ b₂ b₃ b₄ b₅ b₆ b₇) c = (ofBits b₁ b₂ b₃ b₄ b₅ b₆ b₇ c, b₀) := by
  have h₀ := b₀.toNat_lt
  refine Prod.ext (BitVec.eq_of_toNat_eq ?_) BitVec.getLsbD_ofBoolListLE
  rw [toNat_ror, toNat_ofBits, toNat_ofBits]
  omega

end

/-- Every byte is given by its bits. -/
theorem exists_ofBits (m : Byte) : ∃ b₀ b₁ b₂ b₃ b₄ b₅ b₆ b₇, m = ofBits b₀ b₁ b₂ b₃ b₄ b₅ b₆ b₇ := by
  refine ⟨bit m 0, bit m 1, bit m 2, bit m 3, bit m 4, bit m 5, bit m 6, bit m 7, BitVec.eq_of_getLsbD_eq fun k hk => ?_⟩
  rw [ofBits, BitVec.getLsbD_ofBoolListLE]
  interval_cases k <;> rfl

section
variable (m : Byte) (c : Bool)

/-- Nine moves around a ring of nine bits. -/
theorem rol_nine : (fun p : Byte × Bool => rol p.1 p.2)^[9] (m, c) = (m, c) := by
  obtain ⟨b₀, b₁, b₂, b₃, b₄, b₅, b₆, b₇, rfl⟩ := exists_ofBits m
  simp only [Function.iterate_succ_apply, rol_ofBits, Function.iterate_zero_apply]

theorem ror_nine : (fun p : Byte × Bool => ror p.1 p.2)^[9] (m, c) = (m, c) := by
  obtain ⟨b₀, b₁, b₂, b₃, b₄, b₅, b₆, b₇, rfl⟩ := exists_ofBits m
  simp only [Function.iterate_succ_apply, ror_ofBits, Function.iterate_zero_apply]

theorem ror_rol : ror (rol m c).1 (rol m c).2 = (m, c) := by
  obtain ⟨b₀, b₁, b₂, b₃, b₄, b₅, b₆, b₇, rfl⟩ := exists_ofBits m
  rw [rol_ofBits, ror_ofBits]

end

/-- Settles O21: the values as numbers, the round trips of the rotations as moves of bits. -/
theorem shiftHelpers : Obligations.ShiftHelpers := by
  intro m c
  have hhalf : (lsr m c).1.toNat < 128 := by
    have hm := m.isLt
    rw [toNat_lsr]
    omega
  exact ⟨toNat_asl m c, bit_seven_iff m, toNat_lsr m c, bit_zero_iff m, hhalf, toNat_rol m c, bit_seven_iff m, toNat_ror m c,
    bit_zero_iff m, rol_nine m c, ror_nine m c, ror_rol m c⟩

end Sys2Proof.Machine
end

