-- ==== Sys2Proof/Proofs/CallAndReturn.lean ====
section
/-!
PROOFS. RTS after JSR (O46) and RTI after BRK (O47): the cells the pushes wrote hold what they wrote, in any state with that memory
and memory map, and the pulls read those cells.
-/

namespace Sys2Proof.Machine

open Sys2Proof.Statements

section
variable {s : State} {v : Byte}

/-- A RAM stack cell holds the byte pushed. -/
theorem holds_pushed (hk : s.kindAt (stackAddr s.sp) = .ram) : holds (pushed s v) (stackAddr s.sp) v :=
  ⟨.inl hk, pushed_peek_same s v hk⟩

/-- The other cells hold what they held. -/
theorem holds_pushed_of_holds {a : Addr} {b : Byte} (ha : a ≠ stackAddr s.sp) (h : holds s a b) : holds (pushed s v) a b := by
  obtain ⟨hk, hp⟩ := h
  exact ⟨hk, (State.peek_wrote_other v ha).trans hp⟩

/-- Stack pointers that differ by one or two are those of different cells. -/
theorem stackAddr_ne_sub (sp : Byte) : stackAddr sp ≠ stackAddr (sp - 1) ∧ stackAddr sp ≠ stackAddr (sp - 1 - 1) := by
  constructor
  · intro h
    have := stackAddr_inj h
    bv_omega
  · intro h
    have := stackAddr_inj h
    bv_omega

/-- Two pushes into RAM leave both bytes there. -/
theorem holds_pushed_pushed {b c : Byte} (h₀ : s.kindAt (stackAddr s.sp) = .ram)
    (h₁ : s.kindAt (stackAddr (s.sp - 1)) = .ram) :
    holds (pushed (pushed s b) c) (stackAddr s.sp) b ∧ holds (pushed (pushed s b) c) (stackAddr (s.sp - 1)) c := by
  obtain ⟨hne, -⟩ := stackAddr_ne_sub s.sp
  exact ⟨holds_pushed_of_holds hne (holds_pushed h₀), holds_pushed (s := pushed s b) h₁⟩

/-- The frame of an exception, in RAM, holds the return address and the status byte. -/
theorem holds_framePushed {ret : Addr} {b : Bool} (h₀ : s.kindAt (stackAddr s.sp) = .ram)
    (h₁ : s.kindAt (stackAddr (s.sp - 1)) = .ram) (h₂ : s.kindAt (stackAddr (s.sp - 1 - 1)) = .ram) :
    holds (framePushed s ret b) (stackAddr s.sp) (hi ret) ∧
    holds (framePushed s ret b) (stackAddr (s.sp - 1)) (lo ret) ∧
    holds (framePushed s ret b) (stackAddr (s.sp - 1 - 1)) (pByte b s) := by
  obtain ⟨hhigh, hlow⟩ := holds_pushed_pushed (b := hi ret) (c := lo ret) h₀ h₁
  obtain ⟨-, hne₂⟩ := stackAddr_ne_sub s.sp
  obtain ⟨hne₁, -⟩ := stackAddr_ne_sub (s.sp - 1)
  exact ⟨holds_pushed_of_holds hne₂ hhigh, holds_pushed_of_holds hne₁ hlow,
    holds_pushed (s := pushed (pushed s (hi ret)) (lo ret)) h₂⟩

/-- RAM can be written. -/
theorem stackWritable_two (h₀ : s.kindAt (stackAddr s.sp) = .ram) (h₁ : s.kindAt (stackAddr (s.sp - 1)) = .ram) :
    stackWritable s 2 := by
  intro k hk
  interval_cases k
  · rw [BitVec.sub_zero, h₀]
    exact nofun
  · exact fun h => nomatch h₁.symm.trans h

end

/-- Settles O46: JSR by `execJsr_eq`; RTS by `execRts_eq`, from the cells JSR wrote. -/
theorem jsrThenRtsReturns : Obligations.JsrThenRtsReturns := by
  intro addr s h₀ h₁
  refine ⟨_, execJsr_eq (stackWritable_two h₀ h₁) addr, fun u hmem hparams hsp => ?_⟩
  obtain ⟨hhigh, hlow⟩ := holds_pushed_pushed (b := hi (s.pc + 2)) (c := lo (s.pc + 2)) h₀ h₁
  have hsp' : u.sp = s.sp - 2 := hsp.trans (pushed_pushed_sp s (hi (s.pc + 2)) (lo (s.pc + 2)))
  have hone : u.sp + 1 = s.sp - 1 := by rw [hsp']; bv_omega
  have htwo : u.sp + 2 = s.sp := by rw [hsp']; bv_omega
  have hl : u.read (stackAddr (u.sp + 1)) = .next (lo (s.pc + 2), u) := by
    rw [hone]
    exact State.read_of_holds (holds_congr hparams hmem hlow)
  have hh : u.read (stackAddr (u.sp + 2)) = .next (hi (s.pc + 2), u) := by
    rw [htwo]
    exact State.read_of_holds (holds_congr hparams hmem hhigh)
  have hpc : s.pc + 2 + 1 = s.pc + 3 := by bv_omega
  calc exec .rts u = .next { u with draws := u.draws, sp := u.sp + 2, pc := word (hi (s.pc + 2)) (lo (s.pc + 2)) + 1 } :=
        execRts_eq hl hh
    _ = .next { u with sp := s.sp, pc := s.pc + 3 } := by rw [htwo, word_hi_lo, hpc]

/-- What BRK leaves of memory, map and S is the pushed frame. -/
theorem brk_frame {s t : State} (h : exec .brk s = .next t) :
    t.mem = (framePushed s (s.pc + 2) true).mem ∧ t.params = s.params ∧ t.sp = s.sp - 3 := by
  have hbrk : s.takeException irqVector (s.pc + 2) true = .next t := h
  obtain ⟨w, k, -, -, -, rfl⟩ := State.takeException_moves hbrk
  have htwo : s.sp - 2 = s.sp - 1 - 1 := by bv_omega
  refine ⟨?_, rfl, rfl⟩
  rw [htwo]
  rfl

/-- Settles O47: RTI by `State.returnFromException_eq`, from the frame BRK pushed; the status byte gives the flags back. -/
theorem brkThenRtiReturns : Obligations.BrkThenRtiReturns := by
  intro s t hram h u hmem hparams hsp
  obtain ⟨htmem, htparams, htsp⟩ := brk_frame h
  have h₀ : s.kindAt (stackAddr s.sp) = .ram := by rw [← hram 0 (by decide), BitVec.sub_zero]
  have h₁ : s.kindAt (stackAddr (s.sp - 1)) = .ram := hram 1 (by decide)
  have h₂ : s.kindAt (stackAddr (s.sp - 1 - 1)) = .ram := by
    have htwo : s.sp - 1 - 1 = s.sp - BitVec.ofNat 8 2 := by bv_omega
    rw [htwo]
    exact hram 2 (by decide)
  obtain ⟨hhigh, hlow, hstatus⟩ := holds_framePushed (ret := s.pc + 2) (b := true) h₀ h₁ h₂
  have huparams : u.params = (framePushed s (s.pc + 2) true).params := hparams.trans htparams
  have humem : u.mem = (framePushed s (s.pc + 2) true).mem := hmem.trans htmem
  have husp : u.sp = s.sp - 3 := hsp.trans htsp
  have hone : u.sp + 1 = s.sp - 1 - 1 := by rw [husp]; bv_omega
  have htwo : u.sp + 2 = s.sp - 1 := by rw [husp]; bv_omega
  have hthree : u.sp + 3 = s.sp := by rw [husp]; bv_omega
  have hp : u.read (stackAddr (u.sp + 1)) = .next (pByte true s, u) := by
    rw [hone]
    exact State.read_of_holds (holds_congr huparams humem hstatus)
  have hl : u.read (stackAddr (u.sp + 2)) = .next (lo (s.pc + 2), u) := by
    rw [htwo]
    exact State.read_of_holds (holds_congr huparams humem hlow)
  have hh : u.read (stackAddr (u.sp + 3)) = .next (hi (s.pc + 2), u) := by
    rw [hthree]
    exact State.read_of_holds (holds_congr huparams humem hhigh)
  have hrti : exec .rti u = u.returnFromException := rfl
  rw [hrti, State.returnFromException_eq hp hl hh, hthree, word_hi_lo, bit_pByte_n, bit_pByte_v, bit_pByte_d, bit_pByte_i,
    bit_pByte_z, bit_pByte_c]

end Sys2Proof.Machine
end

