-- ==== Sys2Proof/Proofs/ReadResults.lean ====
section
/-!
PROOFS. The instructions that read an operand byte: ADC and SBC (O24), AND, ORA and EOR (O25), the loads (O26), the compares and BIT
(O27). Each is the shared operation of its mnemonic, computed once from the byte read; reads leave a state that differs from
the starting one in the count of free values only.
-/

namespace Sys2Proof.Machine

open Sys2Proof.Statements

/-- The meaning of an instruction whose form is known. -/
theorem exec_of_form {i : Instr} {f : Form} (h : i.form = f) (s : State) : exec i s = runForm f s := by
  rw [exec_eq_run, h]

/-- After reads the state is the starting one with some count of free values. -/
theorem State.Reads.exists_draws {s t : State} (h : s.Reads t) : ∃ k, t = { s with draws := k } := ⟨t.draws, h⟩

section
variable {r : Source} {s s₁ : State} {m : Byte}

/-- The state after an addition or a subtraction, with `k` free values taken and `n` bytes passed. -/
def arithDone (s : State) (k n : Nat) (q : ArithResult) : State :=
  { s with draws := k, a := q.r, n := q.n, v := q.v, z := q.z, c := q.c, pc := s.pc + BitVec.ofNat 16 n }

theorem adc_eq (hr : s.readSource r = .next (m, s₁)) :
    adc r s = andThen (addResult s.params.decimalMode s.d s.a m s.c) fun q =>
      .next (arithDone s s₁.draws r.length q) := by
  obtain ⟨k, rfl⟩ := (State.readSource_reads hr).exists_draws
  rw [adc, hr, andThen_next]
  rfl

theorem sbc_eq (hr : s.readSource r = .next (m, s₁)) :
    sbc r s = andThen (subResult s.params.decimalMode s.d s.a m s.c) fun q =>
      .next (arithDone s s₁.draws r.length q) := by
  obtain ⟨k, rfl⟩ := (State.readSource_reads hr).exists_draws
  rw [sbc, hr, andThen_next]
  rfl

theorem logic_eq {f : Byte → Byte → Byte} (hr : s.readSource r = .next (m, s₁)) :
    logic f r s = .next { s with draws := s₁.draws, a := f s.a m, n := bit (f s.a m) 7, z := decide (f s.a m = 0),
                                 pc := s.pc + BitVec.ofNat 16 r.length } := by
  obtain ⟨k, rfl⟩ := (State.readSource_reads hr).exists_draws
  rw [logic, hr, andThen_next]
  rfl

/-- A load writes its register in the state after the read, then N, Z and PC. -/
theorem load_eq {set : Byte → State → State} (hr : s.readSource r = .next (m, s₁)) :
    load set r s = .next (((set m { s with draws := s₁.draws }).setNZ m).advance r.length) := by
  obtain ⟨k, rfl⟩ := (State.readSource_reads hr).exists_draws
  rw [load, hr, andThen_next]

theorem lax_eq (hr : s.readSource r = .next (m, s₁)) :
    lax r s = .next { s with draws := s₁.draws, a := m, x := m, n := bit m 7, z := decide (m = 0),
                             pc := s.pc + BitVec.ofNat 16 r.length } := by
  obtain ⟨k, rfl⟩ := (State.readSource_reads hr).exists_draws
  rw [lax, hr, andThen_next]
  rfl

theorem compareWith_eq {reg : Byte} (hr : s.readSource r = .next (m, s₁)) :
    compareWith reg r s =
      .next { s with draws := s₁.draws, c := decide (m.toNat ≤ reg.toNat), z := decide (reg = m), n := bit (reg - m) 7,
                     pc := s.pc + BitVec.ofNat 16 r.length } := by
  obtain ⟨k, rfl⟩ := (State.readSource_reads hr).exists_draws
  rw [compareWith, hr, andThen_next]
  rfl

theorem bitTest_eq (hr : s.readSource r = .next (m, s₁)) :
    bitTest r s = .next { s with draws := s₁.draws, z := decide (s.a &&& m = 0), n := bit m 7, v := bit m 6,
                                 pc := s.pc + BitVec.ofNat 16 r.length } := by
  obtain ⟨k, rfl⟩ := (State.readSource_reads hr).exists_draws
  rw [bitTest, hr, andThen_next]
  rfl

end

/-! ## The addition and the subtraction, by D and the parameter -/

section
variable {α : Type} {mode : Option DecimalMode} {d : Bool} (a m : Byte) (c : Bool) (f : ArithResult → Out α)

/-- An addition followed by what is done with it: binary, decimal, or the fault where no function is supplied. -/
theorem andThen_addResult :
    (d = false → andThen (addResult mode d a m c) f = f (addBinary a m c)) ∧
    (∀ g, d = true → mode = some g → andThen (addResult mode d a m c) f = f (decimalResult g .add a m c)) ∧
    (d = true → mode = none → andThen (addResult mode d a m c) f = .fault .decimalModeUnspecified) := by
  refine ⟨?_, ?_, ?_⟩
  · rintro rfl
    rw [addResult_binary, andThen_next]
  · rintro g rfl rfl
    rw [addResult_decimal, andThen_next]
  · rintro rfl rfl
    rw [addResult_unspecified, andThen_fault]

theorem andThen_subResult :
    (d = false → andThen (subResult mode d a m c) f = f (subBinary a m c)) ∧
    (∀ g, d = true → mode = some g → andThen (subResult mode d a m c) f = f (decimalResult g .sub a m c)) ∧
    (d = true → mode = none → andThen (subResult mode d a m c) f = .fault .decimalModeUnspecified) := by
  refine ⟨?_, ?_, ?_⟩
  · rintro rfl
    rw [subResult_binary, andThen_next]
  · rintro g rfl rfl
    rw [subResult_decimal, andThen_next]
  · rintro rfl rfl
    rw [subResult_unspecified, andThen_fault]

end

/-- Where SBC `$EB` is admitted it is SBC. -/
theorem exec_of_sbcEB {i : Instr} {r : Source} {s : State} (hform : i.form = ⟨.sbcEB, .read r⟩)
    (hadmit : s.params.admitMatrixOnly = true) : exec i s = sbc r s := by
  cases i
  case sbcEB imm =>
    cases hform
    exact if_pos hadmit
  all_goals exact nomatch congrArg Form.operation hform

/-- Settles O24: `adc_eq` and `sbc_eq`, with the result by D and the parameter. -/
theorem adcAndSbcResult : Obligations.AdcAndSbcResult := by
  intro i r s s₁ m hr result
  refine ⟨fun hform => ?adc, fun hform => ?sbc⟩
  case adc =>
    have hexec : exec i s = adc r s := exec_of_form hform s
    rw [hexec, adc_eq hr]
    exact andThen_addResult s.a m s.c _
  case sbc =>
    have hexec : exec i s = sbc r s := by
      obtain hform | ⟨hform, hadmit⟩ := hform
      · exact exec_of_form hform s
      · exact exec_of_sbcEB hform hadmit
    rw [hexec, sbc_eq hr]
    exact andThen_subResult s.a m s.c _

/-- Settles O25 by `logic_eq`. -/
theorem logicResult : Obligations.LogicResult := by
  intro i r s s₁ m hr result
  exact ⟨fun hform => (exec_of_form hform s).trans (logic_eq hr), fun hform => (exec_of_form hform s).trans (logic_eq hr),
    fun hform => (exec_of_form hform s).trans (logic_eq hr)⟩

/-- Settles O26 by `load_eq` and `lax_eq`. -/
theorem loadResult : Obligations.LoadResult := by
  intro i r s s₁ m hr base
  have hload (set : Byte → State → State) := load_eq (set := set) hr
  have hlax := lax_eq hr
  exact ⟨fun hform => (exec_of_form hform s).trans (hload State.setA),
    fun hform => (exec_of_form hform s).trans (hload State.setX),
    fun hform => (exec_of_form hform s).trans (hload State.setY), fun hform => (exec_of_form hform s).trans hlax⟩

/-- Settles O27 by `compareWith_eq` and `bitTest_eq`. -/
theorem compareAndBitResult : Obligations.CompareAndBitResult := by
  intro i r s s₁ m hr base compared
  have hcompare (reg : Byte) := compareWith_eq (reg := reg) hr
  have hbit := bitTest_eq hr
  exact ⟨fun hform => (exec_of_form hform s).trans (hcompare s.a), fun hform => (exec_of_form hform s).trans (hcompare s.x),
    fun hform => (exec_of_form hform s).trans (hcompare s.y), fun hform => (exec_of_form hform s).trans hbit⟩

end Sys2Proof.Machine
end

