-- ==== Sys2Proof/Proofs/WriteResults.lean ====
section
/-!
PROOFS. The stores STA, STX, STY and SAX (O28), the shifts of the accumulator (O29), and the instructions that read a memory byte,
change it and write it back: the shifts, INC and DEC (O30), SLO, RLA and SRE (O31), RRA, ISC and DCP (O32).
-/

namespace Sys2Proof.Machine

open Sys2Proof.Statements

/-- The state the statements call stored is the one a write leaves. -/
theorem State.write_eq_stored {s : State} {a : Addr} (b : Byte) (hk : s.kindAt a ≠ .device true) :
    s.write a b = .next (stored s a b) :=
  (s.write_eq a b).trans (if_neg hk)

/-! ## Stores -/

theorem storeByte_eq {b : Byte} {m : MemMode} {s s₁ : State} {l : Located} (hl : s.locate m = .next (l, s₁))
    (hk : s.kindAt l.ea ≠ .device true) :
    storeByte b m s = .next { stored s l.ea b with draws := s₁.draws, pc := s.pc + BitVec.ofNat 16 m.length } := by
  have hreads := State.locate_reads hl
  have hstore := State.store_eq (v := b) hl (by rwa [hreads.kindAt])
  obtain ⟨k, rfl⟩ := hreads.exists_draws
  rw [storeByte, hstore, andThen_next]
  rfl

/-- Settles O28 by `storeByte_eq`; SAX is the store of `A & X`. -/
theorem storeResult : Obligations.StoreResult := by
  intro i m s s₁ l hl hk result
  exact ⟨fun hform => (exec_of_form hform s).trans (storeByte_eq hl hk),
    fun hform => (exec_of_form hform s).trans (storeByte_eq hl hk),
    fun hform => (exec_of_form hform s).trans (storeByte_eq hl hk),
    fun hform => (exec_of_form hform s).trans (storeByte_eq hl hk)⟩

/-! ## The accumulator shifted -/

/-- A right rotation brings the carry into bit 7. -/
theorem bit_seven_ror (m : Byte) (c : Bool) : bit (ror m c).1 7 = c := by
  obtain ⟨b₀, b₁, b₂, b₃, b₄, b₅, b₆, b₇, rfl⟩ := exists_ofBits m
  rw [ror_ofBits]
  exact BitVec.getLsbD_ofBoolListLE

theorem shiftPlace_accumulator_eq (f : Shift) (s : State) :
    shiftPlace f .accumulator s =
      .next { s with a := (f s.a s.c).1, c := (f s.a s.c).2, n := bit (f s.a s.c).1 7, z := decide ((f s.a s.c).1 = 0),
                     pc := s.pc + 1 } := rfl

/-- Settles O29 by `shiftPlace_accumulator_eq`, with bit 7 after LSR and ROR. -/
theorem shiftsOfTheAccumulator : Obligations.ShiftsOfTheAccumulator := by
  intro s result
  exact ⟨shiftPlace_accumulator_eq asl s, shiftPlace_accumulator_eq lsr s, shiftPlace_accumulator_eq rol s,
    shiftPlace_accumulator_eq ror s, bit_seven_lsr s.a s.c, bit_seven_ror s.a s.c⟩

/-! ## A memory byte changed -/

section
variable {m : MemMode} {s s₁ s₂ : State} {l : Located} {b : Byte}

/-- A read-modify-write, from the starting state: the byte stored, and the count of free values its reads leave. -/
theorem State.modify_eq_stored (f : Byte → Byte) (hl : s.locate m = .next (l, s₁)) (hb : s₁.read l.ea = .next (b, s₂)) :
    s.modify m f = .next (b, { stored s l.ea (f b) with draws := s₂.draws }) := by
  rw [State.modify_eq hl hb]
  obtain ⟨k, rfl⟩ := ((State.locate_reads hl).trans (State.read_reads hb)).exists_draws
  rfl

theorem shiftPlace_memory_eq (f : Shift) (hl : s.locate m = .next (l, s₁)) (hb : s₁.read l.ea = .next (b, s₂)) :
    shiftPlace f (.memory m) s =
      .next { stored s l.ea (f b s.c).1 with draws := s₂.draws, c := (f b s.c).2, n := bit (f b s.c).1 7,
                                             z := decide ((f b s.c).1 = 0), pc := s.pc + BitVec.ofNat 16 m.length } := by
  rw [shiftPlace, State.modify_eq_stored _ hl hb, andThen_next]
  rfl

theorem addToMemory_eq (delta : Byte) (hl : s.locate m = .next (l, s₁)) (hb : s₁.read l.ea = .next (b, s₂)) :
    addToMemory delta m s =
      .next { stored s l.ea (b + delta) with draws := s₂.draws, n := bit (b + delta) 7, z := decide (b + delta = 0),
                                             pc := s.pc + BitVec.ofNat 16 m.length } := by
  rw [addToMemory, State.modify_eq_stored _ hl hb, andThen_next]
  rfl

theorem shiftThenLogic_eq (f : Shift) (g : Byte → Byte → Byte) (hl : s.locate m = .next (l, s₁))
    (hb : s₁.read l.ea = .next (b, s₂)) :
    shiftThenLogic f g m s =
      .next { stored s l.ea (f b s.c).1 with draws := s₂.draws, c := (f b s.c).2, a := g s.a (f b s.c).1,
                                             n := bit (g s.a (f b s.c).1) 7, z := decide (g s.a (f b s.c).1 = 0),
                                             pc := s.pc + BitVec.ofNat 16 m.length } := by
  rw [shiftThenLogic, State.modify_eq_stored _ hl hb, andThen_next]
  rfl

theorem rra_eq (hl : s.locate m = .next (l, s₁)) (hb : s₁.read l.ea = .next (b, s₂)) :
    rra m s = andThen (addResult s.params.decimalMode s.d s.a (ror b s.c).1 (ror b s.c).2) fun q =>
      .next (arithDone (stored s l.ea (ror b s.c).1) s₂.draws m.length q) := by
  rw [rra, State.modify_eq_stored _ hl hb, andThen_next]
  rfl

theorem isc_eq (hl : s.locate m = .next (l, s₁)) (hb : s₁.read l.ea = .next (b, s₂)) :
    isc m s = andThen (subResult s.params.decimalMode s.d s.a (b + 1) s.c) fun q =>
      .next (arithDone (stored s l.ea (b + 1)) s₂.draws m.length q) := by
  rw [isc, State.modify_eq_stored _ hl hb, andThen_next]
  rfl

theorem dcp_eq (hl : s.locate m = .next (l, s₁)) (hb : s₁.read l.ea = .next (b, s₂)) :
    dcp m s =
      .next { stored s l.ea (b - 1) with draws := s₂.draws, c := decide ((b - 1).toNat ≤ s.a.toNat),
                                         z := decide (s.a = b - 1), n := bit (s.a - (b - 1)) 7,
                                         pc := s.pc + BitVec.ofNat 16 m.length } := by
  rw [dcp, State.modify_eq_stored _ hl hb, andThen_next]
  rfl

end

/-- Settles O30 by `shiftPlace_memory_eq` and `addToMemory_eq`; DEC adds the byte `$FF`. -/
theorem modifyResult : Obligations.ModifyResult := by
  intro i m s s₁ s₂ l b hl hb result
  have hdec : b + -1 = b - 1 := (BitVec.sub_eq_add_neg b 1).symm
  refine ⟨fun hform => (exec_of_form hform s).trans (shiftPlace_memory_eq asl hl hb),
    fun hform => (exec_of_form hform s).trans (shiftPlace_memory_eq lsr hl hb),
    fun hform => (exec_of_form hform s).trans (shiftPlace_memory_eq rol hl hb),
    fun hform => (exec_of_form hform s).trans (shiftPlace_memory_eq ror hl hb),
    fun hform => (exec_of_form hform s).trans (addToMemory_eq 1 hl hb), fun hform => ?dec⟩
  case dec =>
    rw [← hdec]
    exact (exec_of_form hform s).trans (addToMemory_eq (-1) hl hb)

/-- Settles O31 by `shiftThenLogic_eq`. -/
theorem shiftThenLogicResult : Obligations.ShiftThenLogicResult := by
  intro i m s s₁ s₂ l b hl hb result
  exact ⟨fun hform => (exec_of_form hform s).trans (shiftThenLogic_eq asl _ hl hb),
    fun hform => (exec_of_form hform s).trans (shiftThenLogic_eq rol _ hl hb),
    fun hform => (exec_of_form hform s).trans (shiftThenLogic_eq lsr _ hl hb)⟩

/-- Settles O32: `rra_eq` and `isc_eq`, with the result by D and the parameter, and `dcp_eq`. -/
theorem rraIscDcpResult : Obligations.RraIscDcpResult := by
  intro i m s s₁ s₂ l b hl hb base result
  have hdcp := dcp_eq hl hb
  refine ⟨fun hform => ?rra, fun hform => ?isc, fun hform => (exec_of_form hform s).trans hdcp⟩
  case rra =>
    have hexec : exec i s = rra m s := exec_of_form hform s
    rw [hexec, rra_eq hl hb]
    exact andThen_addResult s.a (ror b s.c).1 (ror b s.c).2 _
  case isc =>
    have hexec : exec i s = isc m s := exec_of_form hform s
    rw [hexec, isc_eq hl hb]
    exact andThen_subResult s.a (b + 1) s.c _

end Sys2Proof.Machine
end

