-- ==== Sys2Proof/Proofs/OpenPoints.lean ====
section
/-!
PROOFS. The instructions whose rule leaves a point open: ARR with its C (rule R210: O34), and the semi-stable stores and LAS inside a
page and across one (rules R220 to R226: O35, O36, O37).
-/

namespace Sys2Proof.Machine

open Sys2Proof.Statements

/-! ## ARR -/

/-- C of ARR is one of the two candidate bits, the one the parameter names if it names one. -/
theorem arrCarry_spec (b : Byte) (s : State) : ∃ c k, arrCarry b s = (c, { s with draws := k }) ∧
    (c = bit b 6 ∨ c = bit b 7) ∧ (s.params.arrCarry = .bit6 → c = bit b 6) ∧ (s.params.arrCarry = .bit7 → c = bit b 7) := by
  obtain ⟨c, k, heq, hc⟩ := arrCarry_eq b s
  refine ⟨c, k, heq, hc, fun h => ?_, fun h => ?_⟩
  · rw [arrCarry, h] at heq
    exact (congrArg Prod.fst heq).symm
  · rw [arrCarry, h] at heq
    exact (congrArg Prod.fst heq).symm

section
variable {imm : Byte} {s : State}

theorem execArr_binary {c : Bool} {k : Nat} (hd : s.d = false)
    (hc : arrCarry (s.a &&& imm) s = (c, { s with draws := k })) :
    execArr imm s =
      .next { s with draws := k, a := (ror (s.a &&& imm) s.c).1, n := s.c, z := decide ((ror (s.a &&& imm) s.c).1 = 0),
                     v := bit (s.a &&& imm) 6 ^^ bit (s.a &&& imm) 7, c := c, pc := s.pc + 2 } := by
  have hn := bit_seven_ror (s.a &&& imm) s.c
  rw [execArr, if_neg (ne_true_of_eq_false hd), hc]
  simp only [State.setArith, binaryArr, hn]
  rfl

theorem execArr_decimal (hd : s.d = true) :
    execArr imm s = andThen (inDecimalMode s.params.decimalMode fun g => decimalArr g s.a imm s.c) fun q =>
      .next (arithDone s s.draws 2 q) :=
  if_pos hd

end

/-- Settles O34: binary with the carry of `arrCarry_spec`, decimal by the supplied function. -/
theorem arrResult : Obligations.ArrResult := by
  intro m s t
  refine ⟨fun hd => ?binary, fun g hd hmode => ?decimal, fun hd hmode => ?unspecified⟩
  case binary =>
    obtain ⟨c, k, heq, hc, hsix, hseven⟩ := arrCarry_spec t s
    exact ⟨(ror t s.c).1, c, k, toNat_ror t s.c, hc, hsix, hseven, execArr_binary hd heq⟩
  case decimal =>
    have hexec : exec (.arr m) s = _ := execArr_decimal hd
    rw [hexec, hmode, inDecimalMode, andThen_next]
    rfl
  case unspecified =>
    have hexec : exec (.arr m) s = _ := execArr_decimal hd
    rw [hexec, hmode, inDecimalMode, andThen_fault]

/-! ## The semi-stable instructions -/

section
variable {m : MemMode} {s s₁ s₂ : State} {l : Located}

theorem locateInPage_eq (hl : s.locate m = .next (l, s₁)) (hc : l.crossed = false) : locateInPage m s = .next (l, s₁) := by
  rw [locateInPage, hl, andThen_next, if_neg (ne_true_of_eq_false hc)]

theorem locateInPage_crossed (hl : s.locate m = .next (l, s₁)) (hc : l.crossed = true) :
    locateInPage m s = .refused .unstablePageCross := by
  rw [locateInPage, hl, andThen_next, if_pos hc]

/-- The byte `w` a semi-stable store of `v` may write to `ea` (rule R221). -/
def StoredByte (s : State) (v : Byte) (ea : Addr) (w : Byte) : Prop :=
  (w = v &&& (hi ea + 1) ∨ w = v) ∧ (s.params.rdyNeverLow = true → w = v &&& (hi ea + 1)) ∧ (hi ea = 0xFE → w = v)

/-- Where the high byte is $FE the mask is $FF, so both candidates are the plain byte. -/
theorem unstableByte_spec (v : Byte) (ea : Addr) (s : State) :
    ∃ w k, unstableByte v ea s = (w, { s with draws := k }) ∧ StoredByte s v ea w := by
  obtain ⟨w, k, heq, hw, hrdy⟩ := unstableByte_eq v ea s
  refine ⟨w, k, heq, hw, hrdy, fun hpage => ?_⟩
  obtain hw | hw := hw
  · have hmask : hi ea + 1 = BitVec.allOnes 8 := by rw [hpage]; decide
    rw [hw, hmask, BitVec.and_allOnes]
  · exact hw

theorem unstableStore_eq (v : Byte) (hl : s.locate m = .next (l, s₁)) (hc : l.crossed = false)
    (hk : s.kindAt l.ea ≠ .device true) :
    ∃ w k, StoredByte s v l.ea w ∧
      unstableStore v m s = .next { stored s l.ea w with draws := k, pc := s.pc + BitVec.ofNat 16 m.length } := by
  have hpage := locateInPage_eq hl hc
  obtain ⟨k₁, rfl⟩ := (State.locate_reads hl).exists_draws
  obtain ⟨w, k, heq, hw⟩ := unstableByte_spec v l.ea { s with draws := k₁ }
  have hwrite := State.write_eq_stored (s := { s with draws := k }) w hk
  refine ⟨w, k, hw, ?_⟩
  simp only [unstableStore, hpage, andThen_next, heq, hwrite]
  rfl

theorem tas_eq (hl : s.locate m = .next (l, s₁)) (hc : l.crossed = false) (hk : s.kindAt l.ea ≠ .device true) :
    ∃ w k, StoredByte s (s.a &&& s.x) l.ea w ∧
      tas m s = .next { stored s l.ea w with draws := k, sp := s.a &&& s.x, pc := s.pc + BitVec.ofNat 16 m.length } := by
  have hpage := locateInPage_eq hl hc
  obtain ⟨k₁, rfl⟩ := (State.locate_reads hl).exists_draws
  obtain ⟨w, k, heq, hw⟩ := unstableByte_spec (s.a &&& s.x) l.ea { s with draws := k₁, sp := s.a &&& s.x }
  have hwrite := State.write_eq_stored (s := { s with draws := k, sp := s.a &&& s.x }) w hk
  refine ⟨w, k, hw, ?_⟩
  simp only [tas, hpage, andThen_next, State.setSp, heq, hwrite]
  rfl

theorem las_eq {b : Byte} (hl : s.locate m = .next (l, s₁)) (hc : l.crossed = false) (hb : s₁.read l.ea = .next (b, s₂)) :
    las m s = .next { s with draws := s₂.draws, a := b &&& s.sp, x := b &&& s.sp, sp := b &&& s.sp,
                             n := bit (b &&& s.sp) 7, z := decide (b &&& s.sp = 0),
                             pc := s.pc + BitVec.ofNat 16 m.length } := by
  rw [las, locateInPage_eq hl hc, andThen_next, hb, andThen_next]
  obtain ⟨k, rfl⟩ := ((State.locate_reads hl).trans (State.read_reads hb)).exists_draws
  rfl

end

/-- Settles O35 by `unstableStore_eq` and `tas_eq`. -/
theorem unstableStoreResult : Obligations.UnstableStoreResult := by
  intro i m s s₁ l hl hc hk result
  have hstore : ∀ v, exec i s = unstableStore v m s → result v s.sp := fun v hexec => by
    obtain ⟨w, k, ⟨hw, hrdy, hpage⟩, heq⟩ := unstableStore_eq v hl hc hk
    exact ⟨w, k, hw, hrdy, hpage, hexec.trans heq⟩
  refine ⟨fun hform => hstore _ (exec_of_form hform s), fun hform => hstore _ (exec_of_form hform s),
    fun hform => hstore _ (exec_of_form hform s), fun hform => ?tas⟩
  case tas =>
    have hexec : exec i s = tas m s := exec_of_form hform s
    obtain ⟨w, k, ⟨hw, hrdy, hpage⟩, heq⟩ := tas_eq hl hc hk
    exact ⟨w, k, hw, hrdy, hpage, hexec.trans heq⟩

/-- Settles O36 by `las_eq`. -/
theorem lasResult : Obligations.LasResult := by
  intro addr s s₁ s₂ l b hl hc hb r
  exact las_eq hl hc hb

/-- The six semi-stable instructions: a store under Warning 2, TAS or LAS, on their memory operand. -/
theorem unstable_forms {i : Instr} (h : i.operation ∈ [.sha, .shx, .shy, .tas, .las]) :
    (∃ (m : MemMode) (v : State → Byte), i.operand = .write m ∧ ∀ s, exec i s = unstableStore (v s) m s) ∨
    (∃ m : MemMode, i.operand = .write m ∧ ∀ s, exec i s = tas m s) ∨
    (∃ m : MemMode, i.operand = .read (.memory m) ∧ ∀ s, exec i s = las m s) := by
  have hlisted : [Operation.sha, .shx, .shy, .tas, .las].contains i.operation = true := List.contains_iff_mem.mpr h
  cases i
  case shaAbsY | shaIndY => exact .inl ⟨_, fun s => s.a &&& s.x, rfl, fun _ => rfl⟩
  case shx => exact .inl ⟨_, State.x, rfl, fun _ => rfl⟩
  case shy => exact .inl ⟨_, State.y, rfl, fun _ => rfl⟩
  case tas => exact .inr (.inl ⟨_, rfl, fun _ => rfl⟩)
  case las => exact .inr (.inr ⟨_, rfl, fun _ => rfl⟩)
  all_goals exact absurd hlisted Bool.false_ne_true

/-- Settles O37: each of the six starts by finding its address inside a page. -/
theorem pageCrossingIsRefused : Obligations.PageCrossingIsRefused := by
  intro i m s s₁ l hop ho hl hc
  have hcross := locateInPage_crossed hl hc
  obtain ⟨m', v, ho', hexec⟩ | ⟨m', ho', hexec⟩ | ⟨m', ho', hexec⟩ := unstable_forms hop
  · obtain rfl : m' = m := by simpa [ho'] using ho
    rw [hexec, unstableStore, hcross, andThen_refused]
  · obtain rfl : m' = m := by simpa [ho'] using ho
    rw [hexec, tas, hcross, andThen_refused]
  · obtain rfl : m' = m := by simpa [ho'] using ho
    rw [hexec, las, hcross, andThen_refused]

end Sys2Proof.Machine
end

