-- ==== Sys2Proof/Proofs/InstructionForms.lean ====
section
/-!
PROOFS. The operation and operand of an instruction, as one predicate over forms: a proof about every instruction goes by its cases,
one for each operation, instead of the 256 constructors.
-/

namespace Sys2Proof.Machine

/-- The forms that instructions have (`instrForm_form`). -/
inductive InstrForm : Form → Prop
  | adc (r : Source) : InstrForm ⟨.adc, .read r⟩
  | sbc (r : Source) : InstrForm ⟨.sbc, .read r⟩
  | cmp (r : Source) : InstrForm ⟨.cmp, .read r⟩
  | cpx (r : Source) : InstrForm ⟨.cpx, .read r⟩
  | cpy (r : Source) : InstrForm ⟨.cpy, .read r⟩
  | and (r : Source) : InstrForm ⟨.and, .read r⟩
  | ora (r : Source) : InstrForm ⟨.ora, .read r⟩
  | eor (r : Source) : InstrForm ⟨.eor, .read r⟩
  | bit (r : Source) : InstrForm ⟨.bit, .read r⟩
  | lda (r : Source) : InstrForm ⟨.lda, .read r⟩
  | ldx (r : Source) : InstrForm ⟨.ldx, .read r⟩
  | ldy (r : Source) : InstrForm ⟨.ldy, .read r⟩
  | lax (r : Source) : InstrForm ⟨.lax, .read r⟩
  | sta (m : MemMode) : InstrForm ⟨.sta, .write m⟩
  | stx (m : MemMode) : InstrForm ⟨.stx, .write m⟩
  | sty (m : MemMode) : InstrForm ⟨.sty, .write m⟩
  | sax (m : MemMode) : InstrForm ⟨.sax, .write m⟩
  | asl (p : Place) : InstrForm ⟨.asl, .modify p⟩
  | lsr (p : Place) : InstrForm ⟨.lsr, .modify p⟩
  | rol (p : Place) : InstrForm ⟨.rol, .modify p⟩
  | ror (p : Place) : InstrForm ⟨.ror, .modify p⟩
  | inc (m : MemMode) : InstrForm ⟨.inc, .modify (.memory m)⟩
  | dec (m : MemMode) : InstrForm ⟨.dec, .modify (.memory m)⟩
  | slo (m : MemMode) : InstrForm ⟨.slo, .modify (.memory m)⟩
  | rla (m : MemMode) : InstrForm ⟨.rla, .modify (.memory m)⟩
  | sre (m : MemMode) : InstrForm ⟨.sre, .modify (.memory m)⟩
  | rra (m : MemMode) : InstrForm ⟨.rra, .modify (.memory m)⟩
  | isc (m : MemMode) : InstrForm ⟨.isc, .modify (.memory m)⟩
  | dcp (m : MemMode) : InstrForm ⟨.dcp, .modify (.memory m)⟩
  | anc (b : Byte) : InstrForm ⟨.anc, .read (.immediate b)⟩
  | alr (b : Byte) : InstrForm ⟨.alr, .read (.immediate b)⟩
  | arr (b : Byte) : InstrForm ⟨.arr, .read (.immediate b)⟩
  | sbx (b : Byte) : InstrForm ⟨.sbx, .read (.immediate b)⟩
  | sha (m : MemMode) : InstrForm ⟨.sha, .write m⟩
  | shx (m : MemMode) : InstrForm ⟨.shx, .write m⟩
  | shy (m : MemMode) : InstrForm ⟨.shy, .write m⟩
  | tas (m : MemMode) : InstrForm ⟨.tas, .write m⟩
  | las (m : MemMode) : InstrForm ⟨.las, .read (.memory m)⟩
  | tax : InstrForm ⟨.tax, .implied⟩
  | tay : InstrForm ⟨.tay, .implied⟩
  | txa : InstrForm ⟨.txa, .implied⟩
  | tya : InstrForm ⟨.tya, .implied⟩
  | tsx : InstrForm ⟨.tsx, .implied⟩
  | txs : InstrForm ⟨.txs, .implied⟩
  | inx : InstrForm ⟨.inx, .implied⟩
  | dex : InstrForm ⟨.dex, .implied⟩
  | iny : InstrForm ⟨.iny, .implied⟩
  | dey : InstrForm ⟨.dey, .implied⟩
  | clc : InstrForm ⟨.clc, .implied⟩
  | sec : InstrForm ⟨.sec, .implied⟩
  | cld : InstrForm ⟨.cld, .implied⟩
  | sed : InstrForm ⟨.sed, .implied⟩
  | cli : InstrForm ⟨.cli, .implied⟩
  | sei : InstrForm ⟨.sei, .implied⟩
  | clv : InstrForm ⟨.clv, .implied⟩
  | nop : InstrForm ⟨.nop, .implied⟩
  | pha : InstrForm ⟨.pha, .implied⟩
  | php : InstrForm ⟨.php, .implied⟩
  | pla : InstrForm ⟨.pla, .implied⟩
  | plp : InstrForm ⟨.plp, .implied⟩
  | bcc (o : Byte) : InstrForm ⟨.bcc, .relative o⟩
  | bcs (o : Byte) : InstrForm ⟨.bcs, .relative o⟩
  | beq (o : Byte) : InstrForm ⟨.beq, .relative o⟩
  | bne (o : Byte) : InstrForm ⟨.bne, .relative o⟩
  | bmi (o : Byte) : InstrForm ⟨.bmi, .relative o⟩
  | bpl (o : Byte) : InstrForm ⟨.bpl, .relative o⟩
  | bvc (o : Byte) : InstrForm ⟨.bvc, .relative o⟩
  | bvs (o : Byte) : InstrForm ⟨.bvs, .relative o⟩
  | jmpAbs (a : Addr) : InstrForm ⟨.jmp, .target a⟩
  | jmpInd (a : Addr) : InstrForm ⟨.jmp, .indirect a⟩
  | jsr (a : Addr) : InstrForm ⟨.jsr, .target a⟩
  | rts : InstrForm ⟨.rts, .implied⟩
  | rti : InstrForm ⟨.rti, .implied⟩
  | brk : InstrForm ⟨.brk, .implied⟩
  | jam : InstrForm ⟨.jam, .implied⟩
  | nopImplied : InstrForm ⟨.illegalNop, .implied⟩
  | nopImmediate (b : Byte) : InstrForm ⟨.illegalNop, .read (.immediate b)⟩
  | nopMemory (m : MemMode) : InstrForm ⟨.illegalNop, .read (.memory m)⟩
  | sbcEB (b : Byte) : InstrForm ⟨.sbcEB, .read (.immediate b)⟩
  | ane : InstrForm ⟨.ane, .implied⟩
  | laxAB : InstrForm ⟨.laxAB, .implied⟩

theorem instrForm_form (i : Instr) : InstrForm i.form := by
  cases i <;> constructor

end Sys2Proof.Machine
end

