-- ==== Sys2Proof/Proofs/Progress.lean ====
section
/-!
PROOFS. Where every cell is RAM that holds a byte, every read, write, push and address answers, and so does every instruction but
those the statement leaves out (O59).
-/

namespace Sys2Proof.Machine

open Sys2Proof.Statements

/-- Every address is RAM and holds a byte. -/
def RamFilled (s : State) : Prop := ∀ a : Addr, s.kindAt a = .ram ∧ ∃ b : Byte, s.peek a = some b

section
variable {s t : State}

theorem RamFilled.congr (h : RamFilled s) (hparams : t.params = s.params) (hmem : t.mem = s.mem) : RamFilled t := fun a => by
  rw [kindAt_congr hparams, peek_congr hmem]
  exact h a

theorem RamFilled.kindAt_ne (h : RamFilled s) (a : Addr) : s.kindAt a ≠ .device true := by
  rw [(h a).1]
  exact nofun

theorem RamFilled.stackWritable (h : RamFilled s) (n : Nat) : stackWritable s n := fun _ _ => h.kindAt_ne _

/-- A write fills its cell and leaves the others. -/
theorem RamFilled.wrote (h : RamFilled s) (a : Addr) (v : Byte) : RamFilled (s.wrote a v) := fun k => by
  refine ⟨(h k).1, ?_⟩
  by_cases hk : k = a
  · exact ⟨v, by rw [hk, State.peek_wrote_same v (h a).1]⟩
  · rw [State.peek_wrote_other v hk]
    exact (h k).2

theorem RamFilled.pushed (h : RamFilled s) (v : Byte) : RamFilled (pushed s v) :=
  (h.wrote (stackAddr s.sp) v).congr rfl rfl

/-! ## Reads and addresses answer -/

theorem RamFilled.read (h : RamFilled s) (a : Addr) : ∃ b, s.read a = .next (b, s) := by
  obtain ⟨hk, b, hb⟩ := h a
  exact ⟨b, State.read_of_holding (.inl hk) hb⟩

theorem RamFilled.read16ZP (h : RamFilled s) (z : Byte) : ∃ w, s.read16ZP z = .next (w, s) := by
  obtain ⟨l, hl⟩ := h.read (zext16 z)
  obtain ⟨g, hg⟩ := h.read (zext16 (z + 1))
  exact ⟨word g l, by rw [State.read16ZP, State.readPair, hl, andThen_next, hg, andThen_next]⟩

theorem RamFilled.indexed (h : RamFilled s) (base : Addr) (index : Byte) : ∃ l, s.indexed base index = .next (l, s) :=
  ⟨_, if_neg (h.kindAt_ne _)⟩

theorem RamFilled.locate (h : RamFilled s) (m : MemMode) : ∃ l, s.locate m = .next (l, s) := by
  cases m with
  | zeroPage | zeroPageX | zeroPageY | absolute => exact ⟨_, rfl⟩
  | absoluteX base => exact h.indexed base s.x
  | absoluteY base => exact h.indexed base s.y
  | indirectX b =>
    obtain ⟨w, hw⟩ := h.read16ZP (b + s.x)
    exact ⟨_, by rw [State.locate, hw, andThen_next]⟩
  | indirectY b =>
    obtain ⟨w, hw⟩ := h.read16ZP b
    obtain ⟨l, hl⟩ := h.indexed w s.y
    exact ⟨l, by rw [State.locate, hw, andThen_next, hl]⟩

theorem RamFilled.readSource (h : RamFilled s) (r : Source) : ∃ b, s.readSource r = .next (b, s) := by
  cases r with
  | immediate b => exact ⟨b, rfl⟩
  | memory m =>
    obtain ⟨l, hl⟩ := h.locate m
    obtain ⟨b, hb⟩ := h.read l.ea
    exact ⟨b, by rw [State.readSource, hl, andThen_next, hb]⟩

/-- The operand of a read-modify-write is found and holds a byte. -/
theorem RamFilled.located (h : RamFilled s) (m : MemMode) :
    ∃ l b, s.locate m = .next (l, s) ∧ s.read l.ea = .next (b, s) := by
  obtain ⟨l, hl⟩ := h.locate m
  obtain ⟨b, hb⟩ := h.read l.ea
  exact ⟨l, b, hl, hb⟩

end

/-! ## Operations answer -/

section
variable {mode : Option DecimalMode} {d : Bool}

theorem addResult_answers (h : d = true → mode ≠ none) (a m : Byte) (c : Bool) : ∃ q, addResult mode d a m c = .next q := by
  cases d with
  | false => exact ⟨_, rfl⟩
  | true =>
    obtain ⟨g, rfl⟩ := Option.ne_none_iff_exists'.mp (h rfl)
    exact ⟨_, rfl⟩

theorem subResult_answers (h : d = true → mode ≠ none) (a m : Byte) (c : Bool) : ∃ q, subResult mode d a m c = .next q := by
  cases d with
  | false => exact ⟨_, rfl⟩
  | true =>
    obtain ⟨g, rfl⟩ := Option.ne_none_iff_exists'.mp (h rfl)
    exact ⟨_, rfl⟩

variable {s : State} (h : RamFilled s)
include h

theorem sbc_answers (hdec : s.d = true → s.params.decimalMode ≠ none) (r : Source) : ∃ t, sbc r s = .next t := by
  obtain ⟨m, hr⟩ := h.readSource r
  obtain ⟨q, hq⟩ := subResult_answers hdec s.a m s.c
  exact ⟨_, by rw [sbc_eq hr, hq, andThen_next]⟩

theorem adc_answers (hdec : s.d = true → s.params.decimalMode ≠ none) (r : Source) : ∃ t, adc r s = .next t := by
  obtain ⟨m, hr⟩ := h.readSource r
  obtain ⟨q, hq⟩ := addResult_answers hdec s.a m s.c
  exact ⟨_, by rw [adc_eq hr, hq, andThen_next]⟩

theorem compareWith_answers (reg : Byte) (r : Source) : ∃ t, compareWith reg r s = .next t := by
  obtain ⟨m, hr⟩ := h.readSource r
  exact ⟨_, compareWith_eq hr⟩

theorem logic_answers (f : Byte → Byte → Byte) (r : Source) : ∃ t, logic f r s = .next t := by
  obtain ⟨m, hr⟩ := h.readSource r
  exact ⟨_, logic_eq hr⟩

theorem bitTest_answers (r : Source) : ∃ t, bitTest r s = .next t := by
  obtain ⟨m, hr⟩ := h.readSource r
  exact ⟨_, bitTest_eq hr⟩

theorem load_answers (set : Byte → State → State) (r : Source) : ∃ t, load set r s = .next t := by
  obtain ⟨m, hr⟩ := h.readSource r
  exact ⟨_, load_eq hr⟩

theorem lax_answers (r : Source) : ∃ t, lax r s = .next t := by
  obtain ⟨m, hr⟩ := h.readSource r
  exact ⟨_, lax_eq hr⟩

theorem storeByte_answers (b : Byte) (m : MemMode) : ∃ t, storeByte b m s = .next t := by
  obtain ⟨l, hl⟩ := h.locate m
  exact ⟨_, storeByte_eq hl (h.kindAt_ne l.ea)⟩

theorem shiftPlace_answers (f : Shift) (p : Place) : ∃ t, shiftPlace f p s = .next t := by
  cases p with
  | accumulator => exact ⟨_, rfl⟩
  | memory m =>
    obtain ⟨l, b, hl, hb⟩ := h.located m
    exact ⟨_, shiftPlace_memory_eq f hl hb⟩

theorem addToMemory_answers (delta : Byte) (m : MemMode) : ∃ t, addToMemory delta m s = .next t := by
  obtain ⟨l, b, hl, hb⟩ := h.located m
  exact ⟨_, addToMemory_eq delta hl hb⟩

theorem shiftThenLogic_answers (f : Shift) (g : Byte → Byte → Byte) (m : MemMode) : ∃ t, shiftThenLogic f g m s = .next t := by
  obtain ⟨l, b, hl, hb⟩ := h.located m
  exact ⟨_, shiftThenLogic_eq f g hl hb⟩

theorem rra_answers (hdec : s.d = true → s.params.decimalMode ≠ none) (m : MemMode) : ∃ t, rra m s = .next t := by
  obtain ⟨l, b, hl, hb⟩ := h.located m
  obtain ⟨q, hq⟩ := addResult_answers hdec s.a (ror b s.c).1 (ror b s.c).2
  exact ⟨_, by rw [rra_eq hl hb, hq, andThen_next]⟩

theorem isc_answers (hdec : s.d = true → s.params.decimalMode ≠ none) (m : MemMode) : ∃ t, isc m s = .next t := by
  obtain ⟨l, b, hl, hb⟩ := h.located m
  obtain ⟨q, hq⟩ := subResult_answers hdec s.a (b + 1) s.c
  exact ⟨_, by rw [isc_eq hl hb, hq, andThen_next]⟩

theorem dcp_answers (m : MemMode) : ∃ t, dcp m s = .next t := by
  obtain ⟨l, b, hl, hb⟩ := h.located m
  exact ⟨_, dcp_eq hl hb⟩

omit h in
theorem execArr_answers (hdec : s.d = true → s.params.decimalMode ≠ none) (imm : Byte) : ∃ t, execArr imm s = .next t := by
  cases hd : s.d with
  | false =>
    obtain ⟨c, k, hc, -⟩ := arrCarry_eq (s.a &&& imm) s
    exact ⟨_, execArr_binary hd hc⟩
  | true =>
    obtain ⟨g, hg⟩ := Option.ne_none_iff_exists'.mp (hdec hd)
    exact ⟨_, by rw [execArr_decimal hd, hg, inDecimalMode, andThen_next]⟩

section
variable {m : MemMode} (hc : ∀ l, s.locate m = .next (l, s) → l.crossed = false)
include hc

theorem unstableStore_answers (v : Byte) : ∃ t, unstableStore v m s = .next t := by
  obtain ⟨l, hl⟩ := h.locate m
  obtain ⟨w, k, -, heq⟩ := unstableStore_eq v hl (hc l hl) (h.kindAt_ne l.ea)
  exact ⟨_, heq⟩

theorem tas_answers : ∃ t, tas m s = .next t := by
  obtain ⟨l, hl⟩ := h.locate m
  obtain ⟨w, k, -, heq⟩ := tas_eq hl (hc l hl) (h.kindAt_ne l.ea)
  exact ⟨_, heq⟩

theorem las_answers : ∃ t, las m s = .next t := by
  obtain ⟨l, b, hl, hb⟩ := h.located m
  exact ⟨_, las_eq hl (hc l hl) hb⟩

end

theorem illegalNopAt_answers (hadmit : s.params.admitMatrixOnly = true) (m : MemMode) : ∃ t, illegalNopAt m s = .next t := by
  obtain ⟨l, hl⟩ := h.locate m
  exact ⟨_, by rw [illegalNopAt_located hadmit hl, if_neg (h.kindAt_ne l.ea)]⟩

theorem execPla_answers : ∃ t, execPla s = .next t := by
  obtain ⟨b, hb⟩ := h.read (stackAddr (s.sp + 1))
  exact ⟨_, execPla_eq hb⟩

theorem execPlp_answers : ∃ t, execPlp s = .next t := by
  obtain ⟨b, hb⟩ := h.read (stackAddr (s.sp + 1))
  exact ⟨_, execPlp_eq hb⟩

theorem execJmpInd_answers (addr : Addr) : ∃ t, execJmpInd addr s = .next t := by
  obtain ⟨l, hl⟩ := h.read addr
  obtain ⟨g, hg⟩ := h.read (word (hi addr) (lo addr + 1))
  exact ⟨_, execJmpInd_eq hl hg⟩

theorem execRts_answers : ∃ t, execRts s = .next t := by
  obtain ⟨l, hl⟩ := h.read (stackAddr (s.sp + 1))
  obtain ⟨g, hg⟩ := h.read (stackAddr (s.sp + 2))
  exact ⟨_, execRts_eq hl hg⟩

theorem execRti_answers : ∃ t, execRti s = .next t := by
  obtain ⟨p, hp⟩ := h.read (stackAddr (s.sp + 1))
  obtain ⟨l, hl⟩ := h.read (stackAddr (s.sp + 2))
  obtain ⟨g, hg⟩ := h.read (stackAddr (s.sp + 3))
  exact ⟨_, State.returnFromException_eq hp hl hg⟩

/-- The vector is read from the memory the three pushes leave. -/
theorem execBrk_answers : ∃ t, execBrk s = .next t := by
  have hframe : RamFilled (framePushed s (s.pc + 2) true) := ((h.pushed _).pushed _).pushed _
  obtain ⟨l, hl⟩ := hframe.read irqVector
  obtain ⟨g, hg⟩ := hframe.read (irqVector + 1)
  exact ⟨_, State.takeException_eq (h.stackWritable 3) hl hg⟩

end

/-- O59 over forms: one case for each operation. -/
theorem runForm_answers {f : Form} {s : State} (hform : InstrForm f) (h : RamFilled s)
    (hadmit : s.params.admitMatrixOnly = true) (hno : f.operation ∉ [.ane, .laxAB])
    (hdec : s.d = true → f.operation ∈ [.adc, .sbc, .rra, .isc, .arr, .sbcEB] → s.params.decimalMode ≠ none)
    (hcross : f.operation ∈ [.sha, .shx, .shy, .tas, .las] → ∀ (m : MemMode) (l : Located) (s₁ : State),
      f.operand = .write m ∨ f.operand = .read (.memory m) → s.locate m = .next (l, s₁) → l.crossed = false) :
    ∃ t, runForm f s = .next t := by
  cases hform with
  | adc r => exact adc_answers h (fun hd => hdec hd (List.contains_iff_mem.mp rfl)) r
  | sbc r => exact sbc_answers h (fun hd => hdec hd (List.contains_iff_mem.mp rfl)) r
  | cmp r | cpx r | cpy r => exact compareWith_answers h _ r
  | and r | ora r | eor r => exact logic_answers h _ r
  | bit r => exact bitTest_answers h r
  | lda r | ldx r | ldy r => exact load_answers h _ r
  | lax r => exact lax_answers h r
  | sta m | stx m | sty m | sax m => exact storeByte_answers h _ m
  | asl p | lsr p | rol p | ror p => exact shiftPlace_answers h _ p
  | inc m | dec m => exact addToMemory_answers h _ m
  | slo m | rla m | sre m => exact shiftThenLogic_answers h _ _ m
  | rra m => exact rra_answers h (fun hd => hdec hd (List.contains_iff_mem.mp rfl)) m
  | isc m => exact isc_answers h (fun hd => hdec hd (List.contains_iff_mem.mp rfl)) m
  | dcp m => exact dcp_answers h m
  | arr b => exact execArr_answers (fun hd => hdec hd (List.contains_iff_mem.mp rfl)) b
  | sha m | shx m | shy m =>
    exact unstableStore_answers h (fun l => hcross (List.contains_iff_mem.mp rfl) m l s (.inl rfl)) _
  | tas m => exact tas_answers h (fun l => hcross (List.contains_iff_mem.mp rfl) m l s (.inl rfl))
  | las m => exact las_answers h (fun l => hcross (List.contains_iff_mem.mp rfl) m l s (.inr rfl))
  | pha => exact ⟨_, execPha_eq (h.stackWritable 1)⟩
  | php => exact ⟨_, execPhp_eq (h.stackWritable 1)⟩
  | pla => exact execPla_answers h
  | plp => exact execPlp_answers h
  | jmpInd a => exact execJmpInd_answers h a
  | jsr a => exact ⟨_, execJsr_eq (h.stackWritable 2) a⟩
  | rts => exact execRts_answers h
  | rti => exact execRti_answers h
  | brk => exact execBrk_answers h
  | nopImplied => exact ⟨_, illegalNop_admitted 1 hadmit⟩
  | nopImmediate b => exact ⟨_, illegalNop_admitted 2 hadmit⟩
  | nopMemory m => exact illegalNopAt_answers h hadmit m
  | sbcEB b =>
    obtain ⟨t, ht⟩ := sbc_answers h (fun hd => hdec hd (List.contains_iff_mem.mp rfl)) (.immediate b)
    exact ⟨t, (if_pos hadmit).trans ht⟩
  | ane | laxAB => exact absurd (List.contains_iff_mem.mp rfl) hno
  | anc | alr | sbx | tax | tay | txa | tya | tsx | txs | inx | dex | iny | dey | clc | sec | cld | sed | cli | sei | clv |
    nop | bcc | bcs | beq | bne | bmi | bpl | bvc | bvs | jmpAbs | jam => exact ⟨_, rfl⟩

/-- Settles O59 by `runForm_answers`. -/
theorem ramMachineMakesProgress : Obligations.RamMachineMakesProgress := by
  intro i s hfilled hadmit hno hdec hcross
  rw [exec_eq_run]
  exact runForm_answers (instrForm_form i) hfilled hadmit hno hdec hcross

end Sys2Proof.Machine
end

