-- ==== Sys2Proof/Proofs/DecimalFlag.lean ====
section
/-!
PROOFS. D changed before an operation is D changed after it, for every operation that neither computes with D nor pushes it (O55). Each
shared operation is a chain of reads and writes, so the law of each step gives the law of the chain.
-/

namespace Sys2Proof.Machine

open Sys2Proof.Statements

/-- The answer of a read, with D of the state after it changed. -/
def pairWithD {α : Type} (d : Bool) (o : Out (α × State)) : Out (α × State) :=
  andThen o fun q => .next (q.1, q.2.setD d)

/-! ## The change of D moved through a chain -/

section
variable {α β : Type} (d : Bool)

theorem andThen_pairWithD (o : Out (α × State)) (f : α × State → Out β) :
    andThen (pairWithD d o) f = andThen o fun q => f (q.1, q.2.setD d) := by
  cases o <;> rfl

theorem andThen_answerWithD (o : Out State) (f : State → Out β) :
    andThen (answerWithD d o) f = andThen o fun t => f (t.setD d) := by
  cases o <;> rfl

theorem pairWithD_andThen (o : Out β) (f : β → Out (α × State)) :
    pairWithD d (andThen o f) = andThen o fun q => pairWithD d (f q) := by
  cases o <;> rfl

theorem answerWithD_andThen (o : Out β) (f : β → Out State) :
    answerWithD d (andThen o f) = andThen o fun q => answerWithD d (f q) := by
  cases o <;> rfl

end

/-! ## Reads, writes and addresses -/

section
variable (d : Bool) (s : State)

theorem State.read_setD (a : Addr) : (s.setD d).read a = pairWithD d (s.read a) := by
  have hkind : (s.setD d).kindAt a = s.kindAt a := rfl
  have hpeek : (s.setD d).peek a = s.peek a := rfl
  unfold State.read
  rw [hkind, hpeek]
  split
  · split <;> rfl
  · split <;> rfl
  all_goals rfl

theorem State.write_setD (a : Addr) (b : Byte) : (s.setD d).write a b = answerWithD d (s.write a b) := by
  have hkind : (s.setD d).kindAt a = s.kindAt a := rfl
  unfold State.write
  rw [hkind]
  split <;> rfl

theorem State.readPair_setD (low high : Addr) : (s.setD d).readPair low high = pairWithD d (s.readPair low high) := by
  simp only [State.readPair, State.read_setD, andThen_pairWithD, pairWithD_andThen]
  rfl

theorem State.indexed_setD (base : Addr) (index : Byte) :
    (s.setD d).indexed base index = pairWithD d (s.indexed base index) := by
  by_cases hk : s.kindAt (word (hi base) (lo (base + zext16 index))) = .device true
  · have hleft : (s.setD d).indexed base index = .refused _ := if_pos hk
    have hright : s.indexed base index = .refused _ := if_pos hk
    rw [hleft, hright]
    rfl
  · have hleft : (s.setD d).indexed base index = .next _ := if_neg hk
    have hright : s.indexed base index = .next _ := if_neg hk
    rw [hleft, hright]
    rfl

theorem State.locate_setD (m : MemMode) : (s.setD d).locate m = pairWithD d (s.locate m) := by
  cases m with
  | zeroPage | zeroPageX | zeroPageY | absolute => rfl
  | absoluteX base => exact s.indexed_setD d base s.x
  | absoluteY base => exact s.indexed_setD d base s.y
  | indirectX b =>
    simp only [State.locate, State.read16ZP, State.readPair_setD, andThen_pairWithD, pairWithD_andThen]
    rfl
  | indirectY b =>
    simp only [State.locate, State.read16ZP, State.readPair_setD, State.indexed_setD, andThen_pairWithD, pairWithD_andThen]
    rfl

theorem State.readSource_setD (r : Source) : (s.setD d).readSource r = pairWithD d (s.readSource r) := by
  cases r with
  | immediate b => rfl
  | memory m =>
    simp only [State.readSource, State.locate_setD, State.read_setD, andThen_pairWithD, pairWithD_andThen]

theorem State.store_setD (m : MemMode) (b : Byte) : (s.setD d).store m b = answerWithD d (s.store m b) := by
  simp only [State.store, State.locate_setD, State.write_setD, andThen_pairWithD, answerWithD_andThen]

theorem State.modify_setD (m : MemMode) (f : Byte → Byte) : (s.setD d).modify m f = pairWithD d (s.modify m f) := by
  simp only [State.modify, State.locate_setD, State.read_setD, State.write_setD, andThen_pairWithD, andThen_answerWithD,
    pairWithD_andThen]
  rfl

theorem State.push_setD (b : Byte) : (s.setD d).push b = answerWithD d (s.push b) := by
  have hwrite := s.write_setD d (stackAddr s.sp) b
  calc (s.setD d).push b
      = andThen ((s.setD d).write (stackAddr s.sp) b) fun t => .next (t.setSp (s.sp - 1)) := rfl
    _ = answerWithD d (s.push b) := by
      rw [hwrite, andThen_answerWithD, State.push, answerWithD_andThen]
      rfl

theorem State.pushWord_setD (w : Addr) : (s.setD d).pushWord w = answerWithD d (s.pushWord w) := by
  simp only [State.pushWord, State.push_setD, andThen_answerWithD, answerWithD_andThen]

theorem State.pull_setD : (s.setD d).pull = pairWithD d s.pull :=
  (s.setSp (s.sp + 1)).read_setD d (stackAddr (s.sp + 1))

theorem State.pullWord_setD : (s.setD d).pullWord = pairWithD d s.pullWord := by
  simp only [State.pullWord, State.pull_setD, andThen_pairWithD, pairWithD_andThen]
  rfl

/-! ## The shared operations -/

theorem compareWith_setD (reg : Byte) (r : Source) : compareWith reg r (s.setD d) = answerWithD d (compareWith reg r s) := by
  simp only [compareWith, State.readSource_setD, andThen_pairWithD, answerWithD_andThen]
  rfl

theorem logic_setD (f : Byte → Byte → Byte) (r : Source) : logic f r (s.setD d) = answerWithD d (logic f r s) := by
  simp only [logic, State.readSource_setD, andThen_pairWithD, answerWithD_andThen]
  rfl

theorem bitTest_setD (r : Source) : bitTest r (s.setD d) = answerWithD d (bitTest r s) := by
  simp only [bitTest, State.readSource_setD, andThen_pairWithD, answerWithD_andThen]
  rfl

/-- A load into a register that is written without a look at D. -/
theorem load_setD {set : Byte → State → State} (hset : ∀ b t, set b (State.setD d t) = (set b t).setD d) (r : Source) :
    load set r (s.setD d) = answerWithD d (load set r s) := by
  simp only [load, State.readSource_setD, andThen_pairWithD, answerWithD_andThen, hset]
  rfl

theorem lax_setD (r : Source) : lax r (s.setD d) = answerWithD d (lax r s) := by
  simp only [lax, State.readSource_setD, andThen_pairWithD, answerWithD_andThen]
  rfl

theorem storeByte_setD (b : Byte) (m : MemMode) : storeByte b m (s.setD d) = answerWithD d (storeByte b m s) := by
  simp only [storeByte, State.store_setD, andThen_answerWithD, answerWithD_andThen]
  rfl

theorem shiftPlace_setD (f : Shift) (p : Place) : shiftPlace f p (s.setD d) = answerWithD d (shiftPlace f p s) := by
  cases p with
  | accumulator => rfl
  | memory m =>
    simp only [shiftPlace, State.modify_setD, andThen_pairWithD, answerWithD_andThen]
    rfl

theorem addToMemory_setD (delta : Byte) (m : MemMode) :
    addToMemory delta m (s.setD d) = answerWithD d (addToMemory delta m s) := by
  simp only [addToMemory, State.modify_setD, andThen_pairWithD, answerWithD_andThen]
  rfl

theorem shiftThenLogic_setD (f : Shift) (g : Byte → Byte → Byte) (m : MemMode) :
    shiftThenLogic f g m (s.setD d) = answerWithD d (shiftThenLogic f g m s) := by
  simp only [shiftThenLogic, State.modify_setD, andThen_pairWithD, answerWithD_andThen]
  rfl

theorem dcp_setD (m : MemMode) : dcp m (s.setD d) = answerWithD d (dcp m s) := by
  simp only [dcp, State.modify_setD, andThen_pairWithD, answerWithD_andThen]
  rfl

theorem locateInPage_setD (m : MemMode) : locateInPage m (s.setD d) = pairWithD d (locateInPage m s) := by
  simp only [locateInPage, State.locate_setD, andThen_pairWithD, pairWithD_andThen]
  congr 1
  funext l
  split <;> rfl

/-- The draw of Warning 2 is made from the count of free values, not from D. -/
theorem unstableByte_setD (v : Byte) (ea : Addr) :
    unstableByte v ea (s.setD d) = ((unstableByte v ea s).1, (unstableByte v ea s).2.setD d) := by
  have hparams : (s.setD d).params = s.params := rfl
  unfold unstableByte
  rw [hparams]
  split <;> rfl

theorem unstableStore_setD (v : Byte) (m : MemMode) : unstableStore v m (s.setD d) = answerWithD d (unstableStore v m s) := by
  simp only [unstableStore, locateInPage_setD, unstableByte_setD, State.write_setD, andThen_pairWithD, andThen_answerWithD,
    answerWithD_andThen]
  rfl

theorem tas_setD (m : MemMode) : tas m (s.setD d) = answerWithD d (tas m s) := by
  have hsp (t : State) (v : Byte) : (t.setD d).setSp v = (t.setSp v).setD d := rfl
  simp only [tas, locateInPage_setD, hsp, unstableByte_setD, State.write_setD, andThen_pairWithD, andThen_answerWithD,
    answerWithD_andThen]
  rfl

theorem las_setD (m : MemMode) : las m (s.setD d) = answerWithD d (las m s) := by
  simp only [las, locateInPage_setD, State.read_setD, andThen_pairWithD, answerWithD_andThen]
  rfl

theorem execPha_setD : execPha (s.setD d) = answerWithD d (execPha s) := by
  simp only [execPha, State.push_setD, andThen_answerWithD, answerWithD_andThen]
  rfl

theorem execPla_setD : execPla (s.setD d) = answerWithD d (execPla s) := by
  simp only [execPla, State.pull_setD, andThen_pairWithD, answerWithD_andThen]
  rfl

theorem execJmpInd_setD (a : Addr) : execJmpInd a (s.setD d) = answerWithD d (execJmpInd a s) := by
  simp only [execJmpInd, State.read16Bug, State.readPair_setD, andThen_pairWithD, answerWithD_andThen]
  rfl

theorem execJsr_setD (a : Addr) : execJsr a (s.setD d) = answerWithD d (execJsr a s) := by
  have hpush := s.pushWord_setD d (s.pc + 2)
  calc execJsr a (s.setD d)
      = andThen ((s.setD d).pushWord (s.pc + 2)) fun t => .next (t.setPc a) := rfl
    _ = answerWithD d (execJsr a s) := by
      rw [hpush, andThen_answerWithD, execJsr, answerWithD_andThen]
      rfl

theorem execRts_setD : execRts (s.setD d) = answerWithD d (execRts s) := by
  simp only [execRts, State.pullWord_setD, andThen_pairWithD, answerWithD_andThen]
  rfl

theorem illegalNop_setD (len : Nat) : illegalNop len (s.setD d) = answerWithD d (illegalNop len s) := by
  have hparams : (s.setD d).params = s.params := rfl
  unfold illegalNop
  rw [hparams]
  split <;> rfl

theorem illegalNopAt_setD (m : MemMode) : illegalNopAt m (s.setD d) = answerWithD d (illegalNopAt m s) := by
  have hparams : (s.setD d).params = s.params := rfl
  unfold illegalNopAt
  rw [hparams]
  split
  · simp only [State.locate_setD, andThen_pairWithD, answerWithD_andThen]
    congr 1
    funext l
    by_cases hk : l.2.kindAt l.1.ea = .device true
    · rw [if_pos hk]
      exact if_pos hk
    · rw [if_neg hk]
      exact if_neg hk
  · rfl

/-! ## The operations that write D -/

/-- PLP overwrites every flag. -/
theorem execPlp_setD : execPlp (s.setD d) = execPlp s := by
  simp only [execPlp, State.pull_setD, andThen_pairWithD]
  rfl

theorem execRti_setD : execRti (s.setD d) = execRti s := by
  simp only [execRti, State.returnFromException, State.pull_setD, andThen_pairWithD]
  rfl

end

/-- O55 over forms: one case for each operation. -/
theorem runForm_setD {f : Form} (hform : InstrForm f) (s : State) (d : Bool) (hreads : readsD f.operation = false) :
    runForm f (s.setD d) = if writesD f.operation then runForm f s else answerWithD d (runForm f s) := by
  cases hform with
  | adc | sbc | rra | isc | arr | sbcEB | php | brk => exact absurd hreads.symm Bool.false_ne_true
  | cld | sed => rfl
  | plp => exact execPlp_setD d s
  | rti => exact execRti_setD d s
  | cmp r | cpx r | cpy r => exact compareWith_setD d s _ r
  | and r | ora r | eor r => exact logic_setD d s _ r
  | bit r => exact bitTest_setD d s r
  | lda r => exact load_setD d s (set := State.setA) (fun _ _ => rfl) r
  | ldx r => exact load_setD d s (set := State.setX) (fun _ _ => rfl) r
  | ldy r => exact load_setD d s (set := State.setY) (fun _ _ => rfl) r
  | lax r => exact lax_setD d s r
  | sta m | stx m | sty m | sax m => exact storeByte_setD d s _ m
  | asl p | lsr p | rol p | ror p => exact shiftPlace_setD d s _ p
  | inc m | dec m => exact addToMemory_setD d s _ m
  | slo m | rla m | sre m => exact shiftThenLogic_setD d s _ _ m
  | dcp m => exact dcp_setD d s m
  | sha m | shx m | shy m => exact unstableStore_setD d s _ m
  | tas m => exact tas_setD d s m
  | las m => exact las_setD d s m
  | pha => exact execPha_setD d s
  | pla => exact execPla_setD d s
  | jmpInd a => exact execJmpInd_setD d s a
  | jsr a => exact execJsr_setD d s a
  | rts => exact execRts_setD d s
  | nopImplied => exact illegalNop_setD d s 1
  | nopImmediate b => exact illegalNop_setD d s 2
  | nopMemory m => exact illegalNopAt_setD d s m
  | anc | alr | sbx | tax | tay | txa | tya | tsx | txs | inx | dex | iny | dey | clc | sec | cli | sei | clv | nop | bcc |
    bcs | beq | bne | bmi | bpl | bvc | bvs | jmpAbs | jam | ane | laxAB => rfl

/-- Settles O55 by `runForm_setD`. -/
theorem decimalFlagIsIgnoredElsewhere : Obligations.DecimalFlagIsIgnoredElsewhere := by
  intro i s d hreads
  rw [exec_eq_run, exec_eq_run]
  exact runForm_setD (instrForm_form i) s d hreads

end Sys2Proof.Machine
end
